-- ==== Sys2Proof/Word.lean ====
section
/-! DEFINITION. The words of the block: 8-bit fields and codes, 64-bit command and response words, the 1-bit event word. -/

namespace Sys2Proof

/-- An 8-bit field: a colour channel, a brightness, a pulse code, a command operand (00_scope.md R11). -/
abbrev Byte := BitVec 8

/-- A host command word or a response word (30_encoding.md R104, R110). -/
abbrev CommandWord := BitVec 64

/-- A drain-event word (30_encoding.md R111). -/
abbrev EventWord := BitVec 1

/-- The 24 data bits of one LED, `{ER, EG, EB}` (30_encoding.md R101). -/
abbrev LedWord := BitVec 24

end Sys2Proof
end

