-- ==== Sys2Proof/Syntax.lean ====
section
/-! DEFINITION. The instructions of the block, one constructor per row of spec/opcode_table.json. -/

namespace Sys2Proof

/-- The host commands (30_encoding.md R105) and the two drain events (R111). Every operand is an unsigned 8-bit field
(R107), so every term is encodable; an index `>= N` and a brightness `> 100` are valid operands, checked by the
command's own rule. -/
inductive Instr where
  /-- `SETPIX idx, r, g, b, br` (40_pixel_store.md R135). -/
  | setpix (idx r g b br : Byte)
  /-- `SETCOL idx, r, g, b` (R140). -/
  | setcol (idx r g b : Byte)
  /-- `SETBRT idx, br` (R142). -/
  | setbrt (idx br : Byte)
  /-- `SETNORM idx, r, g, b, br` (R145). -/
  | setnorm (idx r g b br : Byte)
  /-- `GETPIX idx` (R150). -/
  | getpix (idx : Byte)
  /-- `PRIME` (42_streaming_sequencer.md R190). -/
  | prime
  /-- `START` (43_transfer_consumer.md R231). -/
  | start
  /-- The drain event `HALF_DRAINED` (42_streaming_sequencer.md R198). -/
  | halfDrained
  /-- The drain event `FULLY_DRAINED` (R199). -/
  | fullyDrained
  deriving DecidableEq, Repr

end Sys2Proof
end

