-- ==== Sys2Proof/Decode.lean ====
section
/-! DEFINITION. The decoder of command words and event words, total, rejecting by name, and the encoder after it
(30_encoding.md R104 to R112). -/

namespace Sys2Proof

/-- Why a command word spells no command (30_encoding.md R108). -/
inductive DecodeError where
  /-- "an `op` outside rule R105's table", `op = 0x00` among them (R109). -/
  | reservedOpcode
  /-- "a word with a nonzero bit in a field that must be 0". -/
  | nonzeroReservedField
  deriving DecidableEq, Repr

/-- What arrives at a port: a command word at the command port, or an event word at the event port (20_memory.md R70,
30_encoding.md R112: the two formats are told apart by the port, not by their bits). -/
inductive PortWord where
  | command (w : CommandWord)
  | event (w : EventWord)
  deriving DecidableEq, Repr

/-- Field `op`, bits 63:56 (R104). -/
def opField (w : CommandWord) : Byte := w.extractLsb' 56 8
/-- Field `idx`, bits 55:48. -/
def idxField (w : CommandWord) : Byte := w.extractLsb' 48 8
/-- Field `r`, bits 47:40. -/
def rField (w : CommandWord) : Byte := w.extractLsb' 40 8
/-- Field `g`, bits 39:32. -/
def gField (w : CommandWord) : Byte := w.extractLsb' 32 8
/-- Field `b`, bits 31:24. -/
def bField (w : CommandWord) : Byte := w.extractLsb' 24 8
/-- Field `br`, bits 23:16. -/
def brField (w : CommandWord) : Byte := w.extractLsb' 16 8

/-- One row of the decode table (R106): the row's bits under `mask` must equal `pattern`. -/
structure DecodeRow where
  mask : CommandWord
  pattern : CommandWord
  deriving DecidableEq, Repr

/-- `(CW & mask) = match` (R106). -/
def DecodeRow.accepts (row : DecodeRow) (w : CommandWord) : Bool := w &&& row.mask == row.pattern

def rowSetpix : DecodeRow := ⟨0xFF0000000000FFFF, 0x0100000000000000⟩
def rowSetcol : DecodeRow := ⟨0xFF00000000FFFFFF, 0x0200000000000000⟩
def rowSetbrt : DecodeRow := ⟨0xFF00FFFFFF00FFFF, 0x0300000000000000⟩
def rowSetnorm : DecodeRow := ⟨0xFF0000000000FFFF, 0x0400000000000000⟩
def rowGetpix : DecodeRow := ⟨0xFF00FFFFFFFFFFFF, 0x0500000000000000⟩
def rowPrime : DecodeRow := ⟨0xFFFFFFFFFFFFFFFF, 0x1000000000000000⟩
def rowStart : DecodeRow := ⟨0xFFFFFFFFFFFFFFFF, 0x1100000000000000⟩

/-- The table of R106, in its order. -/
def decodeTable : List DecodeRow :=
  [rowSetpix, rowSetcol, rowSetbrt, rowSetnorm, rowGetpix, rowPrime, rowStart]

/-- The opcodes of R105. -/
def knownOpcode (op : Byte) : Bool :=
  op == 0x01 || op == 0x02 || op == 0x03 || op == 0x04 || op == 0x05 || op == 0x10 || op == 0x11

/-- Decoding a command word (R106 to R109). -/
def decodeCommand (w : CommandWord) : Except DecodeError Instr :=
  if rowSetpix.accepts w then .ok (.setpix (idxField w) (rField w) (gField w) (bField w) (brField w))
  else if rowSetcol.accepts w then .ok (.setcol (idxField w) (rField w) (gField w) (bField w))
  else if rowSetbrt.accepts w then .ok (.setbrt (idxField w) (brField w))
  else if rowSetnorm.accepts w then .ok (.setnorm (idxField w) (rField w) (gField w) (bField w) (brField w))
  else if rowGetpix.accepts w then .ok (.getpix (idxField w))
  else if rowPrime.accepts w then .ok .prime
  else if rowStart.accepts w then .ok .start
  else if knownOpcode (opField w) then .error .nonzeroReservedField
  else .error .reservedOpcode

/-- Decoding an event word: both values are used (R111). -/
def decodeEvent (w : EventWord) : Instr := if w = 0 then .halfDrained else .fullyDrained

/-- Decoding what arrives at a port. -/
def decode : PortWord → Except DecodeError Instr
  | .command w => decodeCommand w
  | .event w => .ok (decodeEvent w)

/-- A command word from its fields, `{op, idx, r, g, b, br, rsv}` with `rsv = 0` (R104). -/
def packWord (op idx r g b br : Byte) : CommandWord := op ++ idx ++ r ++ g ++ b ++ br ++ (0 : BitVec 16)

/-- The word of an instruction (R105, R111). -/
def encode : Instr → PortWord
  | .setpix idx r g b br => .command (packWord 0x01 idx r g b br)
  | .setcol idx r g b => .command (packWord 0x02 idx r g b 0)
  | .setbrt idx br => .command (packWord 0x03 idx 0 0 0 br)
  | .setnorm idx r g b br => .command (packWord 0x04 idx r g b br)
  | .getpix idx => .command (packWord 0x05 idx 0 0 0 0)
  | .prime => .command (packWord 0x10 0 0 0 0 0)
  | .start => .command (packWord 0x11 0 0 0 0 0)
  | .halfDrained => .event 0
  | .fullyDrained => .event 1

/-- The word at a port that a word of spec/opcode_table.json's numbering stands for: `CW64` rows have 64 bits; the `EV1`
rows have one bit (in a whole byte), bit 0 (log 13). -/
def portWordOfTable (nbits w : Nat) : PortWord :=
  if 64 ≤ nbits then .command (BitVec.ofNat 64 w) else .event (BitVec.ofNat 1 w)

/-- The instruction the decoder reads from a word numbered as the opcode table numbers it. -/
def decodeTableWord (nbits w : Nat) : Option Instr := (decode (portWordOfTable nbits w)).toOption

end Sys2Proof
end

