-- ==== Sys2Proof/Config.lean ====
section
/-! DEFINITION. The configuration, "fixed at build/configuration time, not runtime-negotiated" (00_scope.md R7 to R14),
the fixed sizes (R11), and the one free value of the model. -/

namespace Sys2Proof

/-- Codes of one LED, and of one half of the transfer buffer (00_scope.md R11). -/
abbrev halfLen : Nat := 24

/-- Bytes of the transfer buffer (00_scope.md R11). -/
abbrev bufLen : Nat := 48

/-- The divisor and bound of every brightness formula (00_scope.md R10: "fixed at 100 in this spec"). -/
abbrev maxBrightness : Nat := 100

/-- During a latch phase the first two accepted events fill their half with idle codes (00_scope.md R11). -/
abbrev zfillEvents : Nat := 2

/-- Where drain events come from (00_scope.md R12). -/
inductive EventSource where
  /-- `CONSUMER`: only from the transfer consumer. -/
  | consumer
  /-- `EXTERNAL`: the consumer does not run and the environment injects events. -/
  | external
  deriving DecidableEq, Repr

/-- The configuration field `fade_interp` of the host model (44_host_fade_engine.md R256; 93 U19). -/
inductive FadeInterp where
  /-- The spec's default: the exact value rounded down. -/
  | floor
  /-- Some other conversion, known only to keep the two properties R256 states. -/
  | free
  deriving DecidableEq, Repr

/-- The configuration record. -/
structure Config where
  /-- `N`, the LED count (R7). -/
  n : Nat
  /-- `T`, the reset-phase repeat threshold, in accepted drain events (R8). -/
  t : Nat
  /-- `CODE0`, the short code (R9). -/
  code0 : Nat
  /-- `CODE1`, the long code (R9). -/
  code1 : Nat
  /-- `PERIOD`, the timer period in ticks (R9). -/
  period : Nat
  /-- `MAX_B` (R10). -/
  maxB : Nat
  /-- `EVENT_SOURCE` (R12). -/
  eventSource : EventSource
  /-- `FADE_OUT_BUDGET`, of the host only (R13). -/
  fadeOutBudget : Nat
  /-- `fade_interp`, of the host only (44_host_fade_engine.md R256). -/
  fadeInterp : FadeInterp
  deriving DecidableEq, Repr

/-- Rules R7 to R10. "A model refuses a configuration that breaks rules R7 to R10." (R14) -/
def Config.valid (c : Config) : Bool :=
  decide (3 ≤ c.n) && decide (c.n ≤ 255)
    && decide (2 ≤ c.t) && decide (c.t ≤ 255)
    && decide (0 < c.code0) && decide (c.code0 < c.code1) && decide (c.code1 ≤ min c.period 255)
    && decide (c.maxB = 100)

/-- `CODE1` as the byte that goes into the transfer buffer. -/
def Config.longCode (c : Config) : Byte := BitVec.ofNat 8 c.code1

/-- `CODE0` as the byte that goes into the transfer buffer. -/
def Config.shortCode (c : Config) : Byte := BitVec.ofNat 8 c.code0

/-- "The idle code is `0x00`." (30_encoding.md R102) -/
def idleCode : Byte := 0

/-- DESIGN CHOICE (log 1): the configuration of `State.reset`. `N = 34` is the reference implementation's (R7); `T = 2`,
the codes and the period are the test vectors' (R8, R9); `FADE_OUT_BUDGET = 1000` is V-FADE's (95_test_vectors.md). -/
def Config.test : Config :=
  { n := 34, t := 2, code0 := 0x19, code1 := 0x4B, period := 100, maxB := 100,
    eventSource := .consumer, fadeOutBudget := 1000, fadeInterp := .floor }

/-- Output periods of one frame: `(N + T) * 24` (70_reset_and_hazards.md R333). -/
def Config.framePeriods (c : Config) : Nat := (c.n + c.t) * halfLen

/-- Idle output periods of one frame: `24 * T` (70_reset_and_hazards.md R331, R333). -/
def Config.idlePeriods (c : Config) : Nat := c.t * halfLen

/-- The latch obligation of R331: the idle part of each frame, in timer ticks, is at least the LED device's minimum. "The
model does not check this obligation." -/
def Config.latchMeets (c : Config) (deviceMinimumTicks : Nat) : Bool :=
  decide (deviceMinimumTicks ≤ c.idlePeriods * c.period)

/-- The free value of the fade interpolation: what an unknown conversion of `a + (b - a) * (num / den)` gives before the
two limits of R256 are applied (log 8), and what any conversion gives outside `0 <= num / den < 1` (log 24)
(`Machine/Operands.lean`, `fadeInterp`). Nothing is known of it. -/
opaque Config.freeFadeInterp : Byte → Byte → Nat → Nat → Byte

end Sys2Proof
end

