-- ==== Sys2Proof/Machine/State.lean ====
section
/-! DEFINITION. The state of the block and of its host (10_state.md, 44_host_fade_engine.md R250), and the state after
reset (70_reset_and_hazards.md R321). -/

namespace Sys2Proof.Machine

/-- The four 8-bit fields of a pixel record (10_state.md R30). -/
inductive Field where
  | r | g | b | br
  deriving DecidableEq, Repr

/-- A pixel record of `PIX` (R30). -/
structure Pixel where
  r : Byte
  g : Byte
  b : Byte
  br : Byte
  deriving DecidableEq, Repr

/-- The all-zero pixel, also the sentinel of `GETPIX` (40_pixel_store.md R151). -/
def Pixel.zero : Pixel := ⟨0, 0, 0, 0⟩

/-- Three 8-bit channels. -/
structure Colour where
  r : Byte
  g : Byte
  b : Byte
  deriving DecidableEq, Repr

/-- The channels, in the order of 44_host_fade_engine.md R254 ("for c in R, G, B"). -/
inductive Channel where
  | r | g | b
  deriving DecidableEq, Repr

/-- A drain-event kind (10_state.md R37, 30_encoding.md R111). -/
inductive Event where
  /-- `HALF_DRAINED`, value 0. -/
  | half
  /-- `FULLY_DRAINED`, value 1. -/
  | full
  deriving DecidableEq, Repr

/-- `PHASE` (10_state.md R35). -/
inductive Phase where
  /-- `LED_DATA`, value 0. -/
  | ledData
  /-- `RESET_DATA`, value 1. -/
  | resetData
  deriving DecidableEq, Repr

/-- A record of the observation trace (10_state.md R45). -/
inductive Obs where
  /-- `DESYNC(e)`: a repeated drain event was ignored (42_streaming_sequencer.md R193). -/
  | desync (e : Event)
  deriving DecidableEq, Repr

/-- The host's fade state of one LED (44_host_fade_engine.md R250). -/
structure FadeRec where
  fadeEnabled : Bool
  decayDelay : Nat
  nextFadeTime : Nat
  init : Colour
  tgt : Colour
  start : Nat
  dur : Nat
  finished : Bool
  deriving DecidableEq, Repr

/-- The fade state at reset: "`finished[i] = 1`, so the descriptor starts inert. Every other field is 0." (R250) -/
def FadeRec.inert : FadeRec :=
  { fadeEnabled := false, decayDelay := 0, nextFadeTime := 0, init := ⟨0, 0, 0⟩, tgt := ⟨0, 0, 0⟩,
    start := 0, dur := 0, finished := true }

/-- The optional fade fields a pixel carries in the host form of `set` (R258). -/
structure FadeFields where
  fadeEnabled : Bool
  decayDelay : Nat
  nextFadeTime : Nat
  deriving DecidableEq, Repr

/-- A host write of one field of the fade record of an LED (44_host_fade_engine.md R255, R257, R258). -/
inductive FadeWrite where
  | fadeEnabled (v : Bool)
  | decayDelay (v : Nat)
  | nextFadeTime (v : Nat)
  | tgt (c : Colour)
  | start (v : Nat)
  | dur (v : Nat)
  deriving DecidableEq, Repr

/-- One access of a sequence whose order among the others is free; each is one atomic step (00_scope.md R17, 20_memory.md
R77, R79). -/
inductive Access where
  /-- Of one field of the LED's pixel record. -/
  | read (f : Field)
  | write (f : Field) (v : Byte)
  /-- A host write to the LED's fade record (log 7). -/
  | host (w : FadeWrite)
  deriving DecidableEq, Repr

/-- The element of a sequence that follows its accesses: one atomic step (00_scope.md R17, log 7). -/
inductive After where
  /-- Nothing: the sequence has ended. -/
  | done
  /-- `GETPIX`: respond with the values read (40_pixel_store.md R150). -/
  | respond
  /-- `DECAY`: its `GETPIX` responds with the values read (44_host_fade_engine.md R253, 20_memory.md R71, log 23). -/
  | decayRespond (now : Nat)
  /-- `DECAY`: "if br = 0 or now < nextFadeTime[i]: return" (R253). -/
  | decayTest (now : Nat)
  /-- `DECAY`: "issue SETBRT i, br - 1" (R253). -/
  | decaySet
  /-- `DECAY`: advance the deadline (R253). -/
  | decayAdvance
  /-- `FADE`: "if dur[i] = 0 or now >= start[i] + dur[i]" (R254). -/
  | fadeOver (now : Nat)
  /-- `FADE`, over: issue the `SETCOL` that pins the target (R254). -/
  | fadePin
  /-- `FADE`, over, after that `SETCOL`: "finished[i] <- 1" (R254). -/
  | fadeFinish
  /-- `FADE`, not over: compute `t` (R254). -/
  | fadeTime (now : Nat)
  /-- `FADE`, not over, with `t = num / den`: compute `v_c` (R254). -/
  | fadeChannel (c : Channel) (num den : Nat)
  /-- `FADE`, not over: "issue SETCOL i, v_R, v_G, v_B" (R254). -/
  | fadeIssue
  /-- `setNextFadeColor`: its `GETPIX` responds with the values read (R257, 20_memory.md R71, log 23). -/
  | fadeRespond (tgt : Colour) (start dur : Nat)
  /-- `setNextFadeColor`, with the colour read: write `init[i]` (R257). -/
  | fadeInit (tgt : Colour) (start dur : Nat)
  /-- `setNextFadeColor`, with the descriptor written: "finished[i] <- 0" (R257). -/
  | fadeArm
  /-- The host form of `set`, after its `SETPIX`: the writes of the fade fields follow (R258). -/
  | fadeFields (fields : FadeFields)
  deriving DecidableEq, Repr

/-- A sequence in progress: other agents' steps may fall between its elements (00_scope.md R17). -/
structure Task where
  /-- The host context that issued it. -/
  host : Nat
  /-- The LED it works on. -/
  led : Nat
  /-- The accesses not yet made; their order is free (20_memory.md R79). -/
  todo : List Access
  /-- The local variables: the field values read, or the channels `FADE` has computed. -/
  got : Pixel
  /-- The element that follows the accesses. -/
  after : After
  deriving DecidableEq, Repr

/-- What a host context can do: issue a command word (30_encoding.md), or run an operation of the Fade Engine
(44_host_fade_engine.md R252 to R258). -/
inductive HostAction where
  | command (w : CommandWord)
  /-- `DECAY(i, now)` (R253). -/
  | decay (i now : Nat)
  /-- `FADE(i, now)` (R254). -/
  | fade (i now : Nat)
  /-- `setNextFadeColor(i, tr, tg, tb, s, d)` (R257). -/
  | setNextFadeColor (i : Nat) (tgt : Colour) (start dur : Nat)
  /-- The host form of `set(i, pixel)`, with the pixel's optional fade fields (R258). -/
  | set (i : Nat) (r g b br : Byte) (fields : Option FadeFields)
  /-- The host form of `setColorNormalized(i, r, g, b, br)` (R255). -/
  | setNorm (i : Nat) (r g b br : Byte)
  deriving DecidableEq, Repr

/-- One move of one agent (00_scope.md R4). DESIGN CHOICE (log 4): the environment's choice of who moves next, and with
what, is the list `State.inputs` of these. -/
inductive Turn where
  /-- Host context `h` runs `a` from start to end, no other agent's step inside. -/
  | whole (h : Nat) (a : HostAction)
  /-- Host context `h` begins `a`; a sequence of several accesses stays in progress. -/
  | split (h : Nat) (a : HostAction)
  /-- Host context `h` takes the next atomic step of its sequence in progress: access number `k` of those left (counted
  modulo their number), or what follows when none is left. -/
  | advance (h k : Nat)
  /-- The sequencer's event step `SEQ_EVENT` (42_streaming_sequencer.md R192). -/
  | sequencer
  /-- The consumer's step `CONSUME` (43_transfer_consumer.md R233). -/
  | consumer
  /-- The environment's `INJECT(e)`, in the `EXTERNAL` configuration (R192, 43_transfer_consumer.md R237). -/
  | inject (e : Event)
  deriving DecidableEq, Repr

/-- The two faults of the model (60_exceptions.md R282). Each is a sticky bit of State: raising one sets the bit and the
machine goes on (R285), so no step answers `Host.Outcome.fault` with either (log 10). -/
inductive Fault where
  /-- `F_EVENT_OVERRUN`, code 1: raised by the consumer's step when a drain point is reached while `PENDING` holds an
  event (R283). Safe: recorded, and no meaning is claimed for the run after it. -/
  | eventOverrun
  /-- `F_HOST_PROTOCOL`, code 2: raised by `START` or `PRIME` out of order (R284). Safe: recorded, nothing else changes. -/
  | hostProtocol
  deriving DecidableEq, Repr

/-- Why a step has no meaning. -/
inductive Refusal where
  /-- Raised by an arm of `exec` whose instruction has no meaning yet. No arm is left so. Safe. -/
  | notModelled (mnemonic : String)
  /-- Raised by `step` when the configuration breaks one of the rules R7 to R10: "Refused means the model gives it no
  meaning." (00_scope.md R14) Safe. -/
  | badConfiguration
  deriving DecidableEq, Repr

/-- The whole state: the block's (10_state.md), its host's (44_host_fade_engine.md R250), the configuration, and what
the environment has in store. -/
structure State where
  /-- The configuration; no step writes it (00_scope.md R14). -/
  cfg : Config
  /-- `PIX`, one record per LED (R30). -/
  pix : List Pixel
  /-- `TB` (R33). -/
  tb : Vector Byte 48
  /-- `PHASE` (R35). -/
  phase : Phase
  /-- `CURSOR` (R36). -/
  cursor : Byte
  /-- `LAST_EV` (R37). -/
  lastEv : Event
  /-- `RCOUNT` (R38). -/
  rcount : Byte
  /-- `PRIMED` (R39). -/
  primed : Bool
  /-- `STARTED` (R40). -/
  started : Bool
  /-- `RD`, range 0 to 47 (R41). -/
  rd : Fin 48
  /-- `PENDING` (R42). -/
  pending : Option Event
  /-- `F_EVENT_OVERRUN` (R43). -/
  fEventOverrun : Bool
  /-- `F_HOST_PROTOCOL` (R43). -/
  fHostProtocol : Bool
  /-- `REFUSED` (R44). -/
  refused : Bool
  /-- `WIRE`, oldest code first (R45). -/
  wire : List Byte
  /-- `OBS`, oldest record first (R45). -/
  obs : List Obs
  /-- `RESP`, oldest response first (R45). -/
  resp : List CommandWord
  /-- The host's fade state, one record per LED (R250). -/
  fade : List FadeRec
  /-- The command sequences in progress, at most one per host context (20_memory.md R79, R85). -/
  tasks : List Task
  /-- The moves the environment has in store, oldest first (log 4). -/
  inputs : List Turn
  deriving DecidableEq, Repr

/-- The state after reset for a configuration and given reset draws of `PIX` and `TB` (70_reset_and_hazards.md R321;
10_state.md R32, R34). A draw has one record per LED, each with a brightness of at most 100 (`drawOk`). -/
def State.resetWith (cfg : Config) (pix : List Pixel) (tb : Vector Byte 48) : State :=
  { cfg := cfg, pix := pix, tb := tb, phase := .ledData, cursor := 0, lastEv := .full, rcount := 0,
    primed := false, started := false, rd := 0, pending := none, fEventOverrun := false, fHostProtocol := false,
    refused := false, wire := [], obs := [], resp := [], fade := List.replicate cfg.n FadeRec.inert, tasks := [],
    inputs := [] }

/-- The draws R32 admits for the pixel RAM. -/
def drawOk (cfg : Config) (pix : List Pixel) : Bool :=
  pix.length == cfg.n && pix.all (fun p => decide (p.br.toNat ≤ maxBrightness))

/-- The state after reset. The configuration (log 1) and the draws of `PIX` (log 2) and `TB` (log 3) are DESIGN CHOICES:
the spec leaves them open. Every other field is R321's. -/
def State.reset : State :=
  State.resetWith Config.test (List.replicate Config.test.n Pixel.zero) (Vector.replicate 48 0)

end Sys2Proof.Machine
end

