-- ==== Sys2Proof/Machine/Ops.lean ====
section
/-! DEFINITION. The shared operations over storage, fault bits, traces and the event channel: the primitives of
00_scope.md R16. The block takes no exception (60_exceptions.md R281); its one interrupt path is `raiseEvent` and
`takePending`, and entering and leaving the handler save and restore nothing (R288, R289). -/

namespace Sys2Proof.Machine

/-! ### The pixel RAM -/

/-- One field of a pixel record. -/
def Pixel.get (p : Pixel) : Field → Byte
  | .r => p.r
  | .g => p.g
  | .b => p.b
  | .br => p.br

/-- The field of a channel. -/
def Channel.field : Channel → Field
  | .r => .r
  | .g => .g
  | .b => .b

/-- One channel of a colour. -/
def Colour.get (c : Colour) : Channel → Byte
  | .r => c.r
  | .g => c.g
  | .b => c.b

/-- A pixel record with one field replaced. -/
def Pixel.put (p : Pixel) (f : Field) (v : Byte) : Pixel :=
  match f with
  | .r => { p with r := v }
  | .g => { p with g := v }
  | .b => { p with b := v }
  | .br => { p with br := v }

/-- The record of LED `i`. The block reads only indices below `N`, where a record exists (log 14). -/
def State.readPixel (s : State) (i : Nat) : Pixel := s.pix.getD i Pixel.zero

/-- `MemRead(PIX, i, f)`. -/
def State.readField (s : State) (i : Nat) (f : Field) : Byte := (s.readPixel i).get f

/-- `MemWrite(PIX, i, f, v)`. -/
def State.writeField (s : State) (i : Nat) (f : Field) (v : Byte) : State :=
  { s with pix := s.pix.set i ((s.readPixel i).put f v) }

/-- Several field writes of one LED, in the order listed. -/
def State.writeFields (s : State) (i : Nat) (ws : List (Field × Byte)) : State :=
  ws.foldl (fun s w => s.writeField i w.1 w.2) s

/-! ### The transfer buffer -/

/-- The two halves of the transfer buffer (10_state.md R33). -/
inductive Half where
  | first
  | second
  deriving DecidableEq, Repr

/-- The half a buffer index lies in: `TB[0..23]` or `TB[24..47]` (R33). -/
def halfOf (k : Nat) : Half := if k < 24 then .first else .second

/-- `MemRead(TB, k, 1)`. -/
def State.readTB (s : State) (k : Fin 48) : Byte := s.tb[k]

/-- The 24 writes `MemWrite(TB, 24*h + k, 1, code k)`, for `k` in 0 to 23. -/
def State.writeHalf (s : State) (h : Half) (code : Nat → Byte) : State :=
  { s with tb := s.tb.mapIdx fun k old => if halfOf k = h then code (k % 24) else old }

/-! ### Fault bits, the refusal mark and the traces -/

/-- `raise Fault(kind)`: sets the sticky bit (00_scope.md R16, 10_state.md R43). -/
def State.raiseFault (s : State) : Fault → State
  | .eventOverrun => { s with fEventOverrun := true }
  | .hostProtocol => { s with fHostProtocol := true }

/-- `refuse(reason)`: sets `REFUSED` (10_state.md R44, 30_encoding.md R108). -/
def State.refuse (s : State) : State := { s with refused := true }

/-- `emit WIRE(c)`. -/
def State.emitWire (s : State) (c : Byte) : State := { s with wire := s.wire ++ [c] }

/-- `emit OBS(rec)`. -/
def State.emitObs (s : State) (o : Obs) : State := { s with obs := s.obs ++ [o] }

/-- `respond(w)`. -/
def State.respond (s : State) (w : CommandWord) : State := { s with resp := s.resp ++ [w] }

/-! ### The drain-event channel -/

/-- `RAISE(e)`: a full channel faults and drops `e`; an empty one takes it (43_transfer_consumer.md R234). -/
def State.raiseEvent (s : State) (e : Event) : State :=
  match s.pending with
  | some _ => s.raiseFault .eventOverrun
  | none => { s with pending := some e }

/-- Entering the handler clears `PENDING` and does nothing else (42_streaming_sequencer.md R192, 60_exceptions.md R288). -/
def State.takePending (s : State) : State := { s with pending := none }

/-! ### The host's fade state and its sequences in progress -/

/-- The fade record of LED `i` (44_host_fade_engine.md R250). -/
def State.readFade (s : State) (i : Nat) : FadeRec := s.fade.getD i FadeRec.inert

/-- The fade record of LED `i` replaced. -/
def State.writeFade (s : State) (i : Nat) (r : FadeRec) : State := { s with fade := s.fade.set i r }

/-- A fade record with one field replaced. -/
def FadeRec.put (r : FadeRec) : FadeWrite → FadeRec
  | .fadeEnabled v => { r with fadeEnabled := v }
  | .decayDelay v => { r with decayDelay := v }
  | .nextFadeTime v => { r with nextFadeTime := v }
  | .tgt c => { r with tgt := c }
  | .start v => { r with start := v }
  | .dur v => { r with dur := v }

/-- One host write to the fade record of LED `i`. -/
def State.putFade (s : State) (i : Nat) (w : FadeWrite) : State := s.writeFade i ((s.readFade i).put w)

/-- The sequence host context `h` has in progress, if any. -/
def State.taskOf (s : State) (h : Nat) : Option Task := s.tasks.find? (fun t => t.host == h)

/-- Host context `h` has a sequence in progress, so it issues no command yet (20_memory.md R85, 40_pixel_store.md R130). -/
def State.busy (s : State) (h : Nat) : Bool := (s.taskOf h).isSome

/-- Host context `h` has nothing in progress any more. -/
def State.dropTask (s : State) (h : Nat) : State := { s with tasks := s.tasks.filter (fun t => t.host != h) }

/-- `t` is what its host context has in progress. -/
def State.putTask (s : State) (t : Task) : State :=
  { s with tasks := t :: s.tasks.filter (fun u => u.host != t.host) }

end Sys2Proof.Machine
end

