-- ==== Sys2Proof/Machine/Consumer.lean ====
section
/-! DEFINITION. `START` and the transfer consumer's step (43_transfer_consumer.md). -/

namespace Sys2Proof.Machine

/-- `START` (R231): a second one, or one before `PRIME`, raises `F_HOST_PROTOCOL` and changes nothing else
(60_exceptions.md R284). -/
def execStart (s : State) : Host.Outcome State Fault Refusal :=
  if s.started || !s.primed then .next (s.raiseFault .hostProtocol)
  else .next { s with started := true, rd := 0 }

/-- The consumer's step is enabled (R232). -/
def State.consumerEnabled (s : State) : Bool := s.started && s.cfg.eventSource == .consumer

/-- The event the step that reads byte `rd` raises (R233). -/
def drainPoint (rd : Fin 48) : Option Event :=
  if rd.val = 23 then some .half else if rd.val = 47 then some .full else none

/-- `RAISE` at a drain point. -/
def State.raiseAt (s : State) : Option Event → State
  | none => s
  | some e => s.raiseEvent e

/-- `CONSUME` (R233): one code to the wire, an event at the end of each half, `RD` advanced modulo 48. -/
def State.consume (s : State) : State :=
  let s := s.emitWire (s.readTB s.rd)
  let s := s.raiseAt (drainPoint s.rd)
  { s with rd := s.rd + 1 }

end Sys2Proof.Machine
end

