-- ==== Sys2Proof/Machine/Operands.lean ====
section
/-! DEFINITION. The checks and the arithmetic on operands: acceptance of an index and a brightness, effective colours and
the pulse-code frame, the arithmetic of `SETNORM`, the response word, the fade interpolation. Values are naturals
(00_scope.md R15). -/

namespace Sys2Proof.Machine

/-- `round_half_up(num / den)`, that is `floor(num / den + 1/2)` (00_scope.md R15). -/
def roundHalfUp (num den : Nat) : Nat := (2 * num + den) / (2 * den)

/-! ### Acceptance of command operands -/

/-- The index names an LED (40_pixel_store.md R131). -/
def State.indexOk (s : State) (idx : Byte) : Bool := decide (idx.toNat < s.cfg.n)

/-- The brightness is in range (40_pixel_store.md R132). -/
def brightnessOk (br : Byte) : Bool := decide (br.toNat ≤ maxBrightness)

/-! ### Effective colours and the pulse-code frame -/

/-- The effective value of a channel, `(channel * BR) div 100` (41_waveform_encoder.md R171). -/
def effective (channel br : Byte) : Byte := BitVec.ofNat 8 (channel.toNat * br.toNat / maxBrightness)

/-- `W = {ER, EG, EB}` (41_waveform_encoder.md R172). -/
def Pixel.ledWord (p : Pixel) : LedWord := effective p.r p.br ++ effective p.g p.br ++ effective p.b p.br

/-- Code `k` of the frame of `W`: `CODE1` if `W[23-k] = 1`, else `CODE0` (30_encoding.md R101). -/
def frameCode (cfg : Config) (w : LedWord) (k : Nat) : Byte :=
  if w.getLsbD (23 - k) then cfg.longCode else cfg.shortCode

/-- The just-vacated half, which an accepted event selects (42_streaming_sequencer.md R194). -/
def Event.vacated : Event → Half
  | .half => .first
  | .full => .second

/-! ### `SETNORM` -/

/-- All-zero input becomes full white (40_pixel_store.md R146). -/
def normInput (r g b : Byte) : Colour :=
  if r = 0 ∧ g = 0 ∧ b = 0 then ⟨255, 255, 255⟩ else ⟨r, g, b⟩

/-- The largest channel. -/
def Colour.largest (c : Colour) : Nat := max c.r.toNat (max c.g.toNat c.b.toNat)

/-- `tgt = round_half_up(br * 255 / 100)` (40_pixel_store.md R147). -/
def normTarget (br : Byte) : Nat := roundHalfUp (br.toNat * 255) 100

/-- One channel scaled: `round_half_up(channel * tgt / m)` (40_pixel_store.md R145). -/
def normChannel (channel : Byte) (tgt m : Nat) : Byte := BitVec.ofNat 8 (roundHalfUp (channel.toNat * tgt) m)

/-- The colour `SETNORM` writes (40_pixel_store.md R145). -/
def normColour (r g b br : Byte) : Colour :=
  let c := normInput r g b
  let m := c.largest
  let tgt := normTarget br
  ⟨normChannel c.r tgt m, normChannel c.g tgt m, normChannel c.b tgt m⟩

/-! ### Field writes of the commands, in the order the spec lists them -/

/-- The field writes of `SETCOL` and of `SETNORM`. -/
def colourWrites (c : Colour) : List (Field × Byte) := [(.r, c.r), (.g, c.g), (.b, c.b)]

/-- The field writes of `SETPIX`. -/
def pixelWrites (p : Pixel) : List (Field × Byte) := [(.r, p.r), (.g, p.g), (.b, p.b), (.br, p.br)]

/-! ### The response word -/

/-- `{0x05, idx, R, G, B, BR, 0x0000}` (30_encoding.md R110). -/
def responseWord (idx : Byte) (p : Pixel) : CommandWord :=
  (0x05 : Byte) ++ idx ++ p.r ++ p.g ++ p.b ++ p.br ++ (0 : BitVec 16)

/-! ### Fade interpolation -/

/-- `floor(a + (b - a) * (num / den))`, on integers (44_host_fade_engine.md R256). -/
def fadeInterpFloor (a b : Byte) (num den : Nat) : Byte :=
  BitVec.ofNat 8 ((a.toNat : Int) + (((b.toNat : Int) - a.toNat) * num) / den).toNat

/-- A value kept between `a` and `b` inclusive. -/
def clampBetween (a b v : Byte) : Byte :=
  if v.toNat < min a.toNat b.toNat then (if a.toNat ≤ b.toNat then a else b)
  else if max a.toNat b.toNat < v.toNat then (if a.toNat ≤ b.toNat then b else a)
  else v

/-- `fade_interp(a, b, num / den)`, a configuration field (44_host_fade_engine.md R256). The free conversion keeps the two
properties R256 states: exact at `t = 0`, and between `a` and `b` (log 8). R256 is for `0 <= t < 1`; outside it, which only a
race between two host contexts reaches, the result is a free value (DESIGN CHOICE, log 24). -/
def fadeInterp (cfg : Config) (a b : Byte) (num den : Nat) : Byte :=
  if num = 0 then a
  else if den ≤ num then Config.freeFadeInterp a b num den
  else
    match cfg.fadeInterp with
    | .floor => fadeInterpFloor a b num den
    | .free => clampBetween a b (Config.freeFadeInterp a b num den)

end Sys2Proof.Machine
end

