-- ==== Sys2Proof/Machine/PixelStore.lean ====
section
/-! DEFINITION. The pixel commands (40_pixel_store.md). Each is given here run from start to end with no other agent's
step inside, which is one of the interleavings R134 admits; `Machine/Sequences.lean` gives the same commands one field
access at a time. -/

namespace Sys2Proof.Machine

/-- `SETPIX` is accepted (R131, R132). -/
def State.pixelAccepted (s : State) (idx br : Byte) : Bool := s.indexOk idx && brightnessOk br

/-- `SETPIX` as a change of state (R135). -/
def State.setPixel (s : State) (idx : Byte) (p : Pixel) : State :=
  if s.pixelAccepted idx p.br then s.writeFields idx.toNat (pixelWrites p) else s

/-- `SETCOL` as a change of state (R140). -/
def State.setColour (s : State) (idx : Byte) (c : Colour) : State :=
  if s.indexOk idx then s.writeFields idx.toNat (colourWrites c) else s

/-- `SETBRT` as a change of state (R142). -/
def State.setBrightness (s : State) (idx br : Byte) : State :=
  if s.pixelAccepted idx br then s.writeField idx.toNat .br br else s

/-- `SETNORM` as a change of state (R145 to R148): `BR` is not written. -/
def State.setNorm (s : State) (idx r g b br : Byte) : State :=
  if s.pixelAccepted idx br then s.writeFields idx.toNat (colourWrites (normColour r g b br)) else s

/-- What `GETPIX` reads: the record of LED `idx`, or the sentinel (R150, R151). -/
def State.pixelOrSentinel (s : State) (idx : Byte) : Pixel :=
  if s.indexOk idx then s.readPixel idx.toNat else Pixel.zero

/-- `GETPIX` as a change of state: its response (R150; 30_encoding.md R110). -/
def State.getPixel (s : State) (idx : Byte) : State := s.respond (responseWord idx (s.pixelOrSentinel idx))

/-- `SETPIX` (R135). -/
def execSetpix (idx r g b br : Byte) (s : State) : Host.Outcome State Fault Refusal :=
  .next (s.setPixel idx ⟨r, g, b, br⟩)

/-- `SETCOL` (R140). -/
def execSetcol (idx r g b : Byte) (s : State) : Host.Outcome State Fault Refusal :=
  .next (s.setColour idx ⟨r, g, b⟩)

/-- `SETBRT` (R142). -/
def execSetbrt (idx br : Byte) (s : State) : Host.Outcome State Fault Refusal :=
  .next (s.setBrightness idx br)

/-- `SETNORM` (R145). -/
def execSetnorm (idx r g b br : Byte) (s : State) : Host.Outcome State Fault Refusal :=
  .next (s.setNorm idx r g b br)

/-- `GETPIX` (R150): no effect other than its response (20_memory.md R81). -/
def execGetpix (idx : Byte) (s : State) : Host.Outcome State Fault Refusal :=
  .next (s.getPixel idx)

end Sys2Proof.Machine
end

