-- ==== Sys2Proof/Machine/Encoder.lean ====
section
/-! DEFINITION. The waveform encoder (41_waveform_encoder.md): `ENCODE` and `ZERO_FILL`, which run inside the invoking
agent's step. -/

namespace Sys2Proof.Machine

/-- `ENCODE(i, h)` (R172): a no-op for `i >= N` (R173); otherwise one snapshot of the pixel (20_memory.md R78) and 24 codes
into half `h`. -/
def State.encodeLed (s : State) (i : Nat) (h : Half) : State :=
  if i < s.cfg.n then s.writeHalf h (frameCode s.cfg (s.readPixel i).ledWord) else s

/-- `ZERO_FILL(h)` (R178). -/
def State.zeroFill (s : State) (h : Half) : State := s.writeHalf h (fun _ => idleCode)

end Sys2Proof.Machine
end

