-- ==== Sys2Proof/Machine/Sequencer.lean ====
section
/-! DEFINITION. The streaming sequencer (42_streaming_sequencer.md): `PRIME` and the drain-event handler. -/

namespace Sys2Proof.Machine

/-- `PRIME` when the stream has not started (R190): one atomic step with both encoder snapshots (R191). -/
def State.primeBuffers (s : State) : State :=
  { (s.encodeLed 0 .first).encodeLed 1 .second with
    cursor := 2, phase := .ledData, lastEv := .full, rcount := 0, primed := true }

/-- `PRIME` (R190): after `START` it raises `F_HOST_PROTOCOL` and changes nothing else (60_exceptions.md R284). -/
def execPrime (s : State) : Host.Outcome State Fault Refusal :=
  if s.started then .next (s.raiseFault .hostProtocol) else .next s.primeBuffers

/-- An accepted event in `LED_DATA` (R195): encode, advance the cursor, test it in the same step. -/
def State.ledEvent (s : State) (h : Half) : State :=
  let s := s.encodeLed s.cursor.toNat h
  let s := { s with cursor := s.cursor + 1 }
  if s.cfg.n ≤ s.cursor.toNat then { s with phase := .resetData, rcount := 0 } else s

/-- An accepted event in `RESET_DATA` (R196, R197): the counter is checked before it is incremented for the fill, and after
it for the end of the phase. -/
def State.resetEvent (s : State) (h : Half) : State :=
  let s := if s.rcount.toNat < zfillEvents then s.zeroFill h else s
  let s := { s with rcount := s.rcount + 1 }
  if s.cfg.t ≤ s.rcount.toNat then { s with cursor := 0, phase := .ledData } else s

/-- `HANDLE(e)` (R192): a repeated kind is ignored and logged (R193); otherwise the just-vacated half is refilled. -/
def State.handle (s : State) (e : Event) : State :=
  if e = s.lastEv then s.emitObs (.desync e)
  else
    let s := { s with lastEv := e }
    match s.phase with
    | .ledData => s.ledEvent e.vacated
    | .resetData => s.resetEvent e.vacated

/-- The event `HALF_DRAINED` (R198). -/
def execHalfDrained (s : State) : Host.Outcome State Fault Refusal := .next (s.handle .half)

/-- The event `FULLY_DRAINED` (R199). -/
def execFullyDrained (s : State) : Host.Outcome State Fault Refusal := .next (s.handle .full)

end Sys2Proof.Machine
end

