-- ==== Sys2Proof/Machine/Dispatch.lean ====
section
/-! DEFINITION. One arm per instruction. -/

namespace Sys2Proof.Machine

def exec (i : Instr) (s : State) : Host.Outcome State Fault Refusal :=
  match i with
  | .setpix idx r g b br => Sys2Proof.Machine.execSetpix idx r g b br s
  | .setcol idx r g b => Sys2Proof.Machine.execSetcol idx r g b s
  | .setbrt idx br => Sys2Proof.Machine.execSetbrt idx br s
  | .setnorm idx r g b br => Sys2Proof.Machine.execSetnorm idx r g b br s
  | .getpix idx => Sys2Proof.Machine.execGetpix idx s
  | .prime => Sys2Proof.Machine.execPrime s
  | .start => Sys2Proof.Machine.execStart s
  | .halfDrained => Sys2Proof.Machine.execHalfDrained s
  | .fullyDrained => Sys2Proof.Machine.execFullyDrained s

end Sys2Proof.Machine
end

