-- ==== Sys2Proof/Machine/FadeEngine.lean ====
section
/-! DEFINITION. The host's Fade Engine and the host forms of two commands (44_host_fade_engine.md), each run from start to
end with no other agent's step inside. `Machine/Sequences.lean` gives the same operations one access at a time. -/

namespace Sys2Proof.Machine

/-- A host index as the 8-bit `idx` of a command (every index below `N` fits, 00_scope.md R7). -/
def ledIndex (i : Nat) : Byte := BitVec.ofNat 8 i

/-- The deadline of LED `i` advances by its decay delay (R253). -/
def State.advanceDeadline (s : State) (i : Nat) : State :=
  let r := s.readFade i
  s.writeFade i { r with nextFadeTime := r.nextFadeTime + r.decayDelay }

/-- `DECAY` goes on past its test of the brightness read and of the deadline (R253). -/
def State.decayDue (s : State) (i now : Nat) (br : Byte) : Bool :=
  br != 0 && decide ((s.readFade i).nextFadeTime ≤ now)

/-- `DECAY(i, now)` (R253). The host reaches `PIX` only through the commands (20_memory.md R71), so its `MemRead(PIX, i, BR)`
is the one inside a `GETPIX i`, which responds. DEDUCED (log 23). -/
def State.decay (s : State) (i now : Nat) : State :=
  if s.cfg.n ≤ i then s
  else if !(s.readFade i).fadeEnabled then s
  else
    let br := s.readField i .br
    let s := s.getPixel (ledIndex i)
    if s.decayDue i now br then (s.setBrightness (ledIndex i) (br - 1)).advanceDeadline i else s

/-- `t >= 1`, or a fade of no duration (R254). -/
def FadeRec.over (r : FadeRec) (now : Nat) : Bool := r.dur == 0 || decide (r.start + r.dur ≤ now)

/-- Channel `c` of a fade at `t = num / den` (R254). -/
def FadeRec.channelAt (r : FadeRec) (cfg : Config) (c : Channel) (num den : Nat) : Byte :=
  fadeInterp cfg (r.init.get c) (r.tgt.get c) num den

/-- The colour of a fade at `now` before its end, with `t = (now - start) / dur`, and `t = 0` up to the start (R254). -/
def FadeRec.colourAt (r : FadeRec) (cfg : Config) (now : Nat) : Colour :=
  let num := now - r.start
  ⟨r.channelAt cfg .r num r.dur, r.channelAt cfg .g num r.dur, r.channelAt cfg .b num r.dur⟩

/-- The descriptor of LED `i` is marked finished (R254). -/
def State.finishFade (s : State) (i : Nat) : State := s.writeFade i { s.readFade i with finished := true }

/-- `FADE(i, now)` (R254). -/
def State.fadeStep (s : State) (i now : Nat) : State :=
  if s.cfg.n ≤ i then s
  else
    let r := s.readFade i
    if r.finished then s
    else if r.over now then (s.setColour (ledIndex i) r.tgt).finishFade i
    else s.setColour (ledIndex i) (r.colourAt s.cfg now)

/-- The descriptor writes of `setNextFadeColor`, with the colour read (R257). -/
def State.beginFade (s : State) (i : Nat) (init tgt : Colour) (start dur : Nat) : State :=
  s.writeFade i { s.readFade i with init := init, tgt := tgt, start := start, dur := dur, finished := false }

/-- The colour channels of a pixel record. -/
def Pixel.colour (p : Pixel) : Colour := ⟨p.r, p.g, p.b⟩

/-- `setNextFadeColor(i, tr, tg, tb, s, d)`: the stored colour, not the effective one, is the new initial point (R257).
The host reaches `PIX` only through the commands (20_memory.md R71), so "the host reads `PIX[i].R`, `G` and `B`" by a `GETPIX i`,
which responds. DEDUCED (log 23). -/
def State.setNextFadeColor (s : State) (i : Nat) (tgt : Colour) (start dur : Nat) : State :=
  if s.cfg.n ≤ i then s else (s.getPixel (ledIndex i)).beginFade i (s.readPixel i).colour tgt start dur

/-- The host writes of the fade fields a pixel carries (R258). -/
def State.setFadeFields (s : State) (i : Nat) (f : FadeFields) : State :=
  s.writeFade i { s.readFade i with
    fadeEnabled := f.fadeEnabled, decayDelay := f.decayDelay, nextFadeTime := f.nextFadeTime }

/-- The host write of `setColorNormalized`: `decayDelay[i] <- FADE_OUT_BUDGET div br` (R255). -/
def State.setDecayDelay (s : State) (i : Nat) (br : Byte) : State :=
  s.writeFade i { s.readFade i with decayDelay := s.cfg.fadeOutBudget / br.toNat }

/-- The host forms of a command are accepted under the command's own conditions (R255, R258). -/
def State.hostAccepted (s : State) (i : Nat) (br : Byte) : Bool := decide (i < s.cfg.n) && brightnessOk br

/-- The host form of `set(i, pixel)` (R258). -/
def State.hostSet (s : State) (i : Nat) (p : Pixel) (fields : Option FadeFields) : State :=
  if s.hostAccepted i p.br then
    let s := s.setPixel (ledIndex i) p
    match fields with
    | none => s
    | some f => s.setFadeFields i f
  else s

/-- The host form of `setColorNormalized(i, r, g, b, br)` (R255). -/
def State.hostSetNorm (s : State) (i : Nat) (r g b br : Byte) : State :=
  if s.hostAccepted i br then
    let s := s.setNorm (ledIndex i) r g b br
    if br = 0 then s else s.setDecayDelay i br
  else s

end Sys2Proof.Machine
end

