-- ==== Sys2Proof/Machine/Sequences.lean ====
section
/-! DEFINITION. Host commands and fade operations one atomic step at a time (00_scope.md R17, 20_memory.md R79,
40_pixel_store.md R134): a sequence is begun, its field accesses are made in any order, every other element of it in the
order the spec lists, each as a step of its own, and other agents' steps may fall between any two of them (log 7). -/

namespace Sys2Proof.Machine

/-- A sequence of field writes, and what follows it. -/
def writeTask (h led : Nat) (ws : List (Field × Byte)) (after : After) : Task :=
  { host := h, led := led, todo := ws.map (fun w => .write w.1 w.2), got := Pixel.zero, after := after }

/-- A sequence at an element that is no access. -/
def pureTask (h led : Nat) (after : After) : Task :=
  { host := h, led := led, todo := [], got := Pixel.zero, after := after }

/-- A sequence of field reads, and what follows it. -/
def readTask (h led : Nat) (fs : List Field) (after : After) : Task :=
  { host := h, led := led, todo := fs.map .read, got := Pixel.zero, after := after }

/-- The field reads of `GETPIX` (40_pixel_store.md R150). -/
def pixelReads : List Field := [.r, .g, .b, .br]

/-- The sequence of the host form of `setColorNormalized`: the writes of `SETNORM` "plus one host write", for a brightness
above 0; the rule does not order that write among the others (44_host_fade_engine.md R255, log 7). -/
def normTask (h led : Nat) (r g b br : Byte) (cfg : Config) : Task :=
  let t := writeTask h led (colourWrites (normColour r g b br)) .done
  if br = 0 then t else { t with todo := t.todo ++ [.host (.decayDelay (cfg.fadeOutBudget / br.toNat))] }

/-- Host context `h` begins command `i`. "The validity checks of rules R131 and R132 read only the command word, so they
are decided before any field access" (40_pixel_store.md R134). A command that is one `step` runs whole. -/
def State.beginCommand (s : State) (h : Nat) (i : Instr) : Host.Outcome State Fault Refusal :=
  match i with
  | .setpix idx r g b br =>
    .next (if s.pixelAccepted idx br then s.putTask (writeTask h idx.toNat (pixelWrites ⟨r, g, b, br⟩) .done) else s)
  | .setcol idx r g b =>
    .next (if s.indexOk idx then s.putTask (writeTask h idx.toNat (colourWrites ⟨r, g, b⟩) .done) else s)
  | .setnorm idx r g b br =>
    .next (if s.pixelAccepted idx br then
      s.putTask (writeTask h idx.toNat (colourWrites (normColour r g b br)) .done) else s)
  | .getpix idx =>
    .next (s.putTask (readTask h idx.toNat (if s.indexOk idx then pixelReads else []) .respond))
  | .setbrt idx br => exec (.setbrt idx br) s
  | .prime => exec .prime s
  | .start => exec .start s
  | .halfDrained => exec .halfDrained s
  | .fullyDrained => exec .fullyDrained s

/-- Host context `h` begins an action (44_host_fade_engine.md R252: the operations of the Fade Engine are sequences): the
tests of the operands, and the first test of a host field that R253 and R254 list. "The host reaches `PIX` only through the
commands" (20_memory.md R71), so `DECAY` and `setNextFadeColor` read by a `GETPIX` of their own. DEDUCED (log 23). -/
def State.beginAction (s : State) (h : Nat) (a : HostAction) : Host.Outcome State Fault Refusal :=
  match a with
  | .command w =>
    match decodeCommand w with
    | .ok i => s.beginCommand h i
    | .error _ => .next s.refuse
  | .decay i now =>
    .next (if s.cfg.n ≤ i || !(s.readFade i).fadeEnabled then s
      else s.putTask (readTask h i pixelReads (.decayRespond now)))
  | .fade i now =>
    .next (if s.cfg.n ≤ i || (s.readFade i).finished then s else s.putTask (pureTask h i (.fadeOver now)))
  | .setNextFadeColor i tgt start dur =>
    .next (if s.cfg.n ≤ i then s else s.putTask (readTask h i pixelReads (.fadeRespond tgt start dur)))
  | .set i r g b br fields =>
    .next (if s.hostAccepted i br then
      s.putTask (writeTask h i (pixelWrites ⟨r, g, b, br⟩)
        (match fields with
          | none => .done
          | some f => .fadeFields f)) else s)
  | .setNorm i r g b br =>
    .next (if s.hostAccepted i br then s.putTask (normTask h i r g b br s.cfg) else s)

/-- A sequence with nothing left to do has ended; any other stays in progress. -/
def State.settleTask (s : State) (t : Task) : State :=
  if t.todo.isEmpty && t.after == .done then s.dropTask t.host else s.putTask t

/-- The `j`-th access left of `t` is made: one atomic step on one field. -/
def State.makeAccess (s : State) (t : Task) (j : Nat) : State :=
  let rest := t.todo.eraseIdx j
  match t.todo[j]? with
  | none => s
  | some (.write f v) => (s.writeField t.led f v).settleTask { t with todo := rest }
  | some (.read f) => s.settleTask { t with todo := rest, got := t.got.put f (s.readField t.led f) }
  | some (.host w) => (s.putFade t.led w).settleTask { t with todo := rest }

/-- The `GETPIX` of a sequence responds with the values read (30_encoding.md R110, 40_pixel_store.md R150). -/
def State.respondTo (s : State) (t : Task) : State := s.respond (responseWord (ledIndex t.led) t.got)

/-- What follows channel `c` in `FADE`'s loop (R254). -/
def Channel.after (num den : Nat) : Channel → After
  | .r => .fadeChannel .g num den
  | .g => .fadeChannel .b num den
  | .b => .fadeIssue

/-- The element of `t` that follows its accesses is done, one atomic step. -/
def State.finishTask (s : State) (t : Task) : State :=
  let s := s.dropTask t.host
  match t.after with
  | .done => s
  | .respond => s.respondTo t
  | .decayRespond now => (s.respondTo t).putTask { t with after := .decayTest now }
  | .decayTest now => if s.decayDue t.led now t.got.br then s.putTask { t with after := .decaySet } else s
  | .decaySet => (s.setBrightness (ledIndex t.led) (t.got.br - 1)).putTask { t with after := .decayAdvance }
  | .decayAdvance => s.advanceDeadline t.led
  | .fadeOver now => s.putTask { t with after := if (s.readFade t.led).over now then .fadePin else .fadeTime now }
  | .fadePin => s.putTask (writeTask t.host t.led (colourWrites (s.readFade t.led).tgt) .fadeFinish)
  | .fadeFinish => s.finishFade t.led
  | .fadeTime now =>
    s.putTask { t with after := .fadeChannel .r (now - (s.readFade t.led).start) (s.readFade t.led).dur }
  | .fadeChannel c num den =>
    s.putTask { t with
      got := t.got.put c.field ((s.readFade t.led).channelAt s.cfg c num den), after := c.after num den }
  | .fadeIssue => s.putTask (writeTask t.host t.led (colourWrites t.got.colour) .done)
  | .fadeRespond tgt start dur => (s.respondTo t).putTask { t with after := .fadeInit tgt start dur }
  | .fadeInit tgt start dur =>
    (s.writeFade t.led { s.readFade t.led with init := t.got.colour }).putTask
      { t with todo := [.host (.tgt tgt), .host (.start start), .host (.dur dur)], after := .fadeArm }
  | .fadeArm => s.writeFade t.led { s.readFade t.led with finished := false }
  | .fadeFields f =>
    s.putTask { t with
      todo := [.host (.fadeEnabled f.fadeEnabled), .host (.decayDelay f.decayDelay),
        .host (.nextFadeTime f.nextFadeTime)],
      after := .done }

/-- The next atomic step of the sequence host context `h` has in progress; `k` says which of the accesses left is next
("follow no fixed order", 20_memory.md R85). -/
def State.advance (s : State) (h k : Nat) : State :=
  match s.taskOf h with
  | none => s
  | some t => if t.todo.isEmpty then s.finishTask t else s.makeAccess t (k % t.todo.length)

end Sys2Proof.Machine
end

