-- ==== Sys2Proof/Machine/Agents.lean ====
section
/-! DEFINITION. One move of one agent (00_scope.md R4): the host, the sequencer, the consumer, the environment. A move of
an agent whose step is not enabled passes (log 4). -/

namespace Sys2Proof.Machine

/-- The instruction a drain event is. -/
def Event.instr : Event → Instr
  | .half => .halfDrained
  | .full => .fullyDrained

/-- A command word at the command port: decoded and run, or refused (40_pixel_store.md R130, 30_encoding.md R108). -/
def State.runCommand (s : State) (w : CommandWord) : Host.Outcome State Fault Refusal :=
  match decodeCommand w with
  | .ok i => exec i s
  | .error _ => .next s.refuse

/-- A host action run from start to end. -/
def State.runAction (s : State) (a : HostAction) : Host.Outcome State Fault Refusal :=
  match a with
  | .command w => s.runCommand w
  | .decay i now => .next (s.decay i now)
  | .fade i now => .next (s.fadeStep i now)
  | .setNextFadeColor i tgt start dur => .next (s.setNextFadeColor i tgt start dur)
  | .set i r g b br fields => .next (s.hostSet i ⟨r, g, b, br⟩ fields)
  | .setNorm i r g b br => .next (s.hostSetNorm i r g b br)

/-- `SEQ_EVENT` (42_streaming_sequencer.md R192): enabled exactly when `PENDING` holds a kind, in the `CONSUMER`
configuration; it clears `PENDING` and handles the event. -/
def State.sequencerStep (s : State) : Host.Outcome State Fault Refusal :=
  match s.cfg.eventSource, s.pending with
  | .consumer, some e => exec e.instr s.takePending
  | _, _ => .next s

/-- `CONSUME` where it is enabled (43_transfer_consumer.md R232). -/
def State.consumerStep (s : State) : State := if s.consumerEnabled then s.consume else s

/-- `INJECT(e)` (42_streaming_sequencer.md R192), in the `EXTERNAL` configuration only (43_transfer_consumer.md R237). -/
def State.injectStep (s : State) (e : Event) : Host.Outcome State Fault Refusal :=
  match s.cfg.eventSource with
  | .consumer => .next s
  | .external => exec e.instr s

/-- One move. A host context with a sequence in progress issues nothing before it has ended (20_memory.md R85). -/
def State.takeTurn (s : State) (t : Turn) : Host.Outcome State Fault Refusal :=
  match t with
  | .whole h a => if s.busy h then .next s else s.runAction a
  | .split h a => if s.busy h then .next s else s.beginAction h a
  | .advance h k => .next (s.advance h k)
  | .sequencer => s.sequencerStep
  | .consumer => .next s.consumerStep
  | .inject e => s.injectStep e

/-- The move taken when the environment has none in store (log 5): the sequencer first, so that every raised event is
handled before the consumer's next step (the eager schedule of 95_test_vectors.md), then sequences in progress, then the
consumer, whose turn therefore always comes again (43_transfer_consumer.md R232). -/
def State.defaultTurn (s : State) : Turn :=
  if s.cfg.eventSource == .consumer && s.pending.isSome then .sequencer
  else
    match s.tasks with
    | t :: _ => .advance t.host 0
    | [] => .consumer

/-- The next move and the state it is made in: the oldest move in store is used up. -/
def State.nextMove (s : State) : Turn × State :=
  match s.inputs with
  | t :: rest => (t, { s with inputs := rest })
  | [] => (s.defaultTurn, s)

/-- A number no busy host context has. -/
def State.freshHost (s : State) : Nat := s.tasks.foldr (fun t m => max (t.host + 1) m) 0

/-- The environment's next move is to bring word `p` to its port: a command from a host context that is not busy, or a
drain event in the way the configuration delivers it (42_streaming_sequencer.md R192). -/
def State.withPortWord (s : State) (p : PortWord) : State :=
  match p with
  | .command w => { s with inputs := .whole s.freshHost (.command w) :: s.inputs }
  | .event w =>
    let e : Event := if w = 0 then .half else .full
    match s.cfg.eventSource with
    | .consumer => { s with pending := some e, inputs := .sequencer :: s.inputs }
    | .external => { s with inputs := .inject e :: s.inputs }

end Sys2Proof.Machine
end

