-- ==== Sys2Proof/Machine/Step.lean ====
section
/-! DEFINITION. One step of the machine: one atomic move of one agent (00_scope.md R17, 20_memory.md R84). -/

namespace Sys2Proof.Machine

/-- One step. A configuration that breaks R7 to R10 has no meaning (00_scope.md R14). -/
def step (s : State) : Host.Outcome State Fault Refusal :=
  if s.cfg.valid then s.nextMove.2.takeTurn s.nextMove.1 else .refused .badConfiguration

/-- The state in which the next step runs the instruction of a word numbered as spec/opcode_table.json numbers it
(log 13). -/
def State.withFetchWord (s : State) (nbits w : Nat) : State := s.withPortWord (portWordOfTable nbits w)

end Sys2Proof.Machine
end

