-- ==== Sys2Proof/WellFormed.lean ====
section
/-! DEFINITION. Commands as the assembly syntax writes them, with natural-number operands, and the check that refuses
what is no command (30_encoding.md R113). A term of `Instr` passes by its type: its operands are 8-bit fields. -/

namespace Sys2Proof

/-- The mnemonics of the assembly syntax (R113). -/
inductive Mnemonic where
  | setpix | setcol | setbrt | setnorm | getpix | prime | start
  deriving DecidableEq, Repr

/-- How many operands a mnemonic takes (R113). -/
def Mnemonic.arity : Mnemonic → Nat
  | .setpix => 5
  | .setcol => 4
  | .setbrt => 2
  | .setnorm => 5
  | .getpix => 1
  | .prime => 0
  | .start => 0

/-- A command as written: a mnemonic and its operands. -/
structure Written where
  mnemonic : Mnemonic
  operands : List Nat
  deriving DecidableEq, Repr

/-- The command has as many operands as its mnemonic takes. -/
def Written.arityOk (w : Written) : Bool := w.operands.length == w.mnemonic.arity

/-- "Operands are decimal, or hexadecimal with a `0x` prefix, each in the range 0 to 255. A value outside that range is
an assembly error, not a command." (R113) -/
def Written.rangeOk (w : Written) : Bool := w.operands.all (· ≤ 255)

/-- The command is well formed: it spells an `Instr`. -/
def Written.wellFormed (w : Written) : Bool := w.arityOk && w.rangeOk

end Sys2Proof
end

