-- ==== Sys2Proof/Machine/Assembler.lean ====
section
/-! DEFINITION. The assembly syntax for test programs (30_encoding.md R113): one command per line, and the directives
`EV HALF`, `EV FULL` and `RUN k`. A line is a list of characters; a program becomes a list of moves (`State.inputs`). -/

namespace Sys2Proof.Machine

/-- A line of the assembly syntax. -/
inductive AsmLine where
  | command (w : Written)
  /-- `EV HALF` and `EV FULL`: "inject a drain event in the `EXTERNAL` configuration". -/
  | ev (e : Event)
  /-- `RUN k`: the consumer takes `k` steps, "with the sequencer handling each raised event before the consumer's next
  step". -/
  | run (k : Nat)
  deriving DecidableEq, Repr

/-! ### Reading a line -/

/-- Words and commas. -/
inductive Token where
  | word (cs : List Char)
  | comma
  deriving DecidableEq, Repr

/-- The word read so far, if any. -/
def flushWord (acc : List Char) : List Token := if acc.isEmpty then [] else [.word acc.reverse]

/-- The tokens of a line; a character outside the syntax has no token. Spaces separate words (log 18). -/
def tokenize : List Char → List Char → Option (List Token)
  | [], acc => some (flushWord acc)
  | c :: cs, acc =>
    if c == ' ' then (tokenize cs []).map (flushWord acc ++ ·)
    else if c == ',' then (tokenize cs []).map (flushWord acc ++ .comma :: ·)
    else if c.isAlphanum then tokenize cs (c :: acc)
    else none

/-- The value of a digit in a base of at most 16; hexadecimal letters of either case (log 18). -/
def digitValue (base : Nat) (c : Char) : Option Nat :=
  let v :=
    if '0' ≤ c ∧ c ≤ '9' then c.toNat - 48
    else if 'A' ≤ c ∧ c ≤ 'F' then c.toNat - 55
    else if 'a' ≤ c ∧ c ≤ 'f' then c.toNat - 87
    else base
  if v < base then some v else none

/-- The value of a digit string, most significant digit first. -/
def digitsValue (base : Nat) : Nat → List Char → Option Nat
  | acc, [] => some acc
  | acc, c :: cs =>
    match digitValue base c with
    | none => none
    | some v => digitsValue base (acc * base + v) cs

/-- "Operands are decimal, or hexadecimal with a `0x` prefix" (R113). -/
def numberOf : List Char → Option Nat
  | [] => none
  | ['0', 'x'] => none
  | '0' :: 'x' :: cs => digitsValue 16 0 cs
  | cs => digitsValue 10 0 cs

/-- Operands separated by commas. -/
def operandsOf : List Token → Option (List Nat)
  | [] => some []
  | [.word cs] => (numberOf cs).map (fun v => [v])
  | .word cs :: .comma :: t :: rest =>
    match numberOf cs, operandsOf (t :: rest) with
    | some v, some vs => some (v :: vs)
    | _, _ => none
  | _ => none

/-- The mnemonics as they are spelled (R113). -/
def mnemonicOf (cs : List Char) : Option Mnemonic :=
  if cs = ['S', 'E', 'T', 'P', 'I', 'X'] then some .setpix
  else if cs = ['S', 'E', 'T', 'C', 'O', 'L'] then some .setcol
  else if cs = ['S', 'E', 'T', 'B', 'R', 'T'] then some .setbrt
  else if cs = ['S', 'E', 'T', 'N', 'O', 'R', 'M'] then some .setnorm
  else if cs = ['G', 'E', 'T', 'P', 'I', 'X'] then some .getpix
  else if cs = ['P', 'R', 'I', 'M', 'E'] then some .prime
  else if cs = ['S', 'T', 'A', 'R', 'T'] then some .start
  else none

/-- A line from its tokens. -/
def lineOfTokens : List Token → Option AsmLine
  | [.word ['E', 'V'], .word ['H', 'A', 'L', 'F']] => some (.ev .half)
  | [.word ['E', 'V'], .word ['F', 'U', 'L', 'L']] => some (.ev .full)
  | [.word ['R', 'U', 'N'], .word k] => (numberOf k).map .run
  | .word m :: rest =>
    match mnemonicOf m, operandsOf rest with
    | some m, some vs => some (.command ⟨m, vs⟩)
    | _, _ => none
  | _ => none

/-- A line from its characters. -/
def parseLine (cs : List Char) : Option AsmLine := (tokenize cs []).bind lineOfTokens

/-! ### Assembling -/

/-- The instruction a command spells, if it is well formed. -/
def instrOfWritten (w : Written) : Option Instr :=
  if w.wellFormed then
    match w.mnemonic, w.operands.map (BitVec.ofNat 8) with
    | .setpix, [idx, r, g, b, br] => some (.setpix idx r g b br)
    | .setcol, [idx, r, g, b] => some (.setcol idx r g b)
    | .setbrt, [idx, br] => some (.setbrt idx br)
    | .setnorm, [idx, r, g, b, br] => some (.setnorm idx r g b br)
    | .getpix, [idx] => some (.getpix idx)
    | .prime, [] => some .prime
    | .start, [] => some .start
    | _, _ => none
  else none

/-- The command word of a command; an event has none (R111: "The host command port cannot send it"). -/
def commandWordOf (i : Instr) : Option CommandWord :=
  match encode i with
  | .command w => some w
  | .event _ => none

/-- The word a command assembles to. -/
def assemble (w : Written) : Option CommandWord := (instrOfWritten w).bind commandWordOf

/-- The moves a line stands for, its commands issued by host context `h`. A sequencer move with no event pending passes,
so `RUN k` is `k` times a consumer move and a sequencer move. -/
def AsmLine.moves (h : Nat) : AsmLine → Option (List Turn)
  | .command w => (assemble w).map (fun cw => [.whole h (.command cw)])
  | .ev e => some [.inject e]
  | .run k => some (List.replicate k [.consumer, .sequencer]).flatten

/-- The moves of a program. -/
def programMoves (h : Nat) : List AsmLine → Option (List Turn)
  | [] => some []
  | l :: ls =>
    match l.moves h, programMoves h ls with
    | some m, some ms => some (m ++ ms)
    | _, _ => none

end Sys2Proof.Machine
end

