-- ==== Sys2Proof/Machine/Flags.lean ====
section
/-! DEFINITION. One-bit values as bits, the fault codes, and the packed `STATUS` view (10_state.md R46). The block has no
condition codes. -/

namespace Sys2Proof.Machine

/-- The value of `PHASE` (10_state.md R35). -/
def Phase.bit : Phase → BitVec 1
  | .ledData => 0
  | .resetData => 1

/-- The value of a drain-event kind (10_state.md R37, 30_encoding.md R111). -/
def Event.bit : Event → BitVec 1
  | .half => 0
  | .full => 1

/-- The fault codes (60_exceptions.md R282). -/
def Fault.code : Fault → Nat
  | .eventOverrun => 1
  | .hostProtocol => 2

/-- The sticky bit of a fault (10_state.md R43). -/
def State.faultBit (s : State) : Fault → Bool
  | .eventOverrun => s.fEventOverrun
  | .hostProtocol => s.fHostProtocol

/-- The kind held in `PENDING`, 0 when `NONE` (10_state.md R46, bit 7). -/
def State.pendingKindBit (s : State) : BitVec 1 :=
  match s.pending with
  | none => 0
  | some e => e.bit

/-- The `STATUS` view, 32 bits, not host-readable (10_state.md R46). -/
def State.status (s : State) : BitVec 32 :=
  (0 : BitVec 2) ++ BitVec.ofNat 6 s.rd.val ++ s.rcount ++ s.cursor
    ++ s.pendingKindBit ++ BitVec.ofBool s.pending.isSome
    ++ BitVec.ofBool s.fHostProtocol ++ BitVec.ofBool s.fEventOverrun
    ++ BitVec.ofBool s.started ++ BitVec.ofBool s.primed ++ s.lastEv.bit ++ s.phase.bit

end Sys2Proof.Machine
end

