-- ==== Sys2Proof/Safety.lean ====
section
/-! DEFINITION. What counts as a safe state and a safe run, in the terms claims use: the premises the spec names and the
invariants its rules state. -/

namespace Sys2Proof.Machine

/-! ### Good states and the premises of claims -/

/-- "every claim about the block takes 'no fault bit set and `REFUSED = 0`' as a premise" (60_exceptions.md R285). -/
def State.good (s : State) : Bool := !s.fEventOverrun && !s.fHostProtocol && !s.refused

/-- The next move is a consumer step that raises a drain event (43_transfer_consumer.md R233). -/
def State.raisesNext (s : State) : Bool :=
  s.nextMove.1 == .consumer && s.consumerEnabled && (drainPoint s.rd).isSome

/-- The next move is a sequencer event step (42_streaming_sequencer.md R192). -/
def State.handlesNext (s : State) : Bool :=
  s.nextMove.1 == .sequencer && s.cfg.eventSource == .consumer && s.pending.isSome

/-- Whether a raised event waits for its handler step after the next move. -/
def State.waitingAfter (s : State) (waiting : Bool) : Bool := s.raisesNext || (waiting && !s.handlesNext)

/-- The rest of a run of `k` steps keeps `REFILL_DEADLINE`; `waiting` says that a raised event has no handler step yet. -/
def State.deadlineFrom (waiting : Bool) : Nat → State → Bool
  | 0, _ => true
  | k + 1, s =>
    !(waiting && s.raisesNext) &&
      match step s with
      | .next t => State.deadlineFrom (s.waitingAfter waiting) k t
      | _ => true

/-- `REFILL_DEADLINE` along the first `k` steps of a run: "every sequencer event step occurs before the consumer's next
`RAISE`" (70_reset_and_hazards.md R330). An event that is pending at the start has been raised. It asks only for that order
of steps: an event may be handled as late as the step before the next raise (V-CON-3 of 95_test_vectors.md). -/
def State.refillDeadlineFor (k : Nat) (s : State) : Bool := State.deadlineFrom s.pending.isSome k s

/-- The move brings the command `i` to the command port. -/
def Turn.isCommand (i : Instr) : Turn → Bool
  | .whole _ (.command w) => decide ((decodeCommand w).toOption = some i)
  | .split _ (.command w) => decide ((decodeCommand w).toOption = some i)
  | _ => false

/-- The host context of a move that begins an action. -/
def Turn.host? : Turn → Option Nat
  | .whole h _ | .split h _ => some h
  | _ => none

/-- The next move issues the command `i`: it brings it to the port from a host context that has nothing in progress. -/
def State.issues (s : State) (i : Instr) : Bool :=
  s.nextMove.1.isCommand i && s.nextMove.1.host?.all (fun h => !s.busy h)

/-- How far a boot has come (70_reset_and_hazards.md R326). -/
inductive BootStage where
  /-- No `PRIME` yet. -/
  | fresh
  /-- `PRIME` issued. -/
  | primed
  /-- `START` issued after it. -/
  | started
  deriving DecidableEq, Repr

/-- The stage after the next move; none where the move breaks the order. -/
def State.bootAfter (s : State) : BootStage → Option BootStage
  | .fresh => if s.issues .start then none else if s.issues .prime then some .primed else some .fresh
  | .primed => if s.issues .start then some .started else some .primed
  | .started => if s.issues .start || s.issues .prime then none else some .started

/-- The boot order along the rest of a run of `k` steps: no `START` before `PRIME`, no second `START`, no `PRIME` after
`START` (70_reset_and_hazards.md R332). The host of R326 and of 44_host_fade_engine.md R259 ("The host issues `PRIME` and
then `START`, each once, in that order") keeps it, whether its commands are issued whole or as sequences. -/
def State.bootOrderFor (stage : BootStage) : Nat → State → Bool
  | 0, _ => true
  | k + 1, s =>
    match s.bootAfter stage with
    | none => false
    | some stage' =>
      match step s with
      | .next t => State.bootOrderFor stage' k t
      | _ => true

/-- The time a host move supplies, if it is a tick of host context `h`. -/
def Turn.tick (h : Nat) : Turn → Option Nat
  | .whole h' (.decay _ now) | .whole h' (.fade _ now) | .split h' (.decay _ now) | .split h' (.fade _ now) =>
    if h' = h then some now else none
  | _ => none

/-- "Along one host agent's ticks it never decreases." (44_host_fade_engine.md R251) -/
def ticksMonotone (h : Nat) (ts : List Turn) : Prop := (ts.filterMap (Turn.tick h)).Pairwise (· ≤ ·)

/-! ### Invariants -/

/-- The form of the storage: one pixel record and one fade record per LED, and no brightness above 100 (10_state.md R30,
R31). The transfer buffer has its 48 bytes by its type (log 12). -/
def Memory.wf (s : State) : Bool :=
  s.pix.length == s.cfg.n && s.pix.all (fun p => decide (p.br.toNat ≤ maxBrightness)) && s.fade.length == s.cfg.n

/-- An access that keeps R31. -/
def Access.ok : Access → Bool
  | .write .br v => brightnessOk v
  | _ => true

/-- The storage invariant: the form of the storage (R31), sequences in progress that keep it, and at most one sequence per
host context (20_memory.md R85). A `GETPIX` of an index `>= N` reads no field and is no exception to the form. -/
def State.storageInv (s : State) : Prop :=
  Memory.wf s = true ∧ (∀ t ∈ s.tasks, (t.todo.all Access.ok) = true) ∧ (s.tasks.map Task.host).Nodup

/-- The sequencer invariant (10_state.md R36, R38, R47, R48). -/
def State.sequencerInv (s : State) : Prop :=
  (s.phase = .ledData → s.cursor.toNat < s.cfg.n)
    ∧ (s.phase = .resetData → s.cursor.toNat = s.cfg.n ∧ s.rcount.toNat < s.cfg.t)
    ∧ s.rcount.toNat ≤ s.cfg.t

/-- Where the consumer is, which event is pending and which was accepted last fit together
(43_transfer_consumer.md R235, 42_streaming_sequencer.md R201). -/
def State.alternation (s : State) : Prop :=
  match s.pending with
  | none => s.lastEv = (if s.rd.val < 24 then .full else .half)
  | some .half => 24 ≤ s.rd.val ∧ s.lastEv = .full
  | some .full => s.rd.val < 24 ∧ s.lastEv = .half

/-- The stream before `START` (70_reset_and_hazards.md R322, 43_transfer_consumer.md R236). -/
def State.notStreaming (s : State) : Prop :=
  s.rd = 0 ∧ s.pending = none ∧ s.wire = [] ∧ s.lastEv = .full ∧ s.fEventOverrun = false

/-- The stream invariant of the `CONSUMER` configuration. -/
def State.consumerInv (s : State) : Prop :=
  (s.started = true → s.primed = true)
    ∧ (s.started = false → s.notStreaming)
    ∧ (s.started = true → s.fEventOverrun = false → s.alternation)

/-- The stream invariant of the `EXTERNAL` configuration: "the consumer takes no step and the wire trace stays empty ...
`PENDING` stays `NONE` and `F_EVENT_OVERRUN` cannot be set" (43_transfer_consumer.md R237). -/
def State.externalInv (s : State) : Prop :=
  (s.started = true → s.primed = true) ∧ s.pending = none ∧ s.wire = [] ∧ s.fEventOverrun = false

/-- The stream invariant. -/
def State.streamInv (s : State) : Prop :=
  match s.cfg.eventSource with
  | .consumer => s.consumerInv
  | .external => s.externalInv

end Sys2Proof.Machine
end

