-- ==== Sys2Proof/Certificates/Slice0/Obligations.lean ====
section
/-! DEFINITION. The statements for the provers. Each docstring names the rule of spec/ it rests on; "log n" is
notes/assumptions/n.md. -/

open Sys2Proof Sys2Proof.Machine

/-! ## What the statements are written with -/

namespace Sys2Proof.Machine

/-- `v = round_half_up(num / den)`, that is `v <= num/den + 1/2 < v + 1` (00_scope.md R15), for `den > 0`. -/
def RoundsTo (v num den : Nat) : Prop := 2 * den * v ≤ 2 * num + den ∧ 2 * num + den < 2 * den * (v + 1)

/-- Channel 0, 1, 2 of a pixel is red, green, blue (30_encoding.md R101). -/
def Pixel.channel (p : Pixel) (c : Nat) : Byte := if c = 0 then p.r else if c = 1 then p.g else p.b

/-- The code at place `m` of the frame of a pixel, computed on naturals: place `m` is bit `7 - m mod 8` of the effective
value of channel `m div 8` (30_encoding.md R101, 41_waveform_encoder.md R171, R177). -/
def frameByte (cfg : Config) (p : Pixel) (m : Nat) : Byte :=
  if ((p.channel (m / 8)).toNat * p.br.toNat / 100).testBit (7 - m % 8) then BitVec.ofNat 8 cfg.code1
  else BitVec.ofNat 8 cfg.code0

/-- `i` is one of the five pixel commands (40_pixel_store.md). -/
def Instr.isPixelCommand : Instr → Bool
  | .setpix _ _ _ _ _ | .setcol _ _ _ _ | .setbrt _ _ | .setnorm _ _ _ _ _ | .getpix _ => true
  | .prime | .start | .halfDrained | .fullyDrained => false

/-- The other drain-event kind. -/
def Event.other : Event → Event
  | .half => .full
  | .full => .half

/-- The state after `k` accepted drain events: each is of the kind that is not `LAST_EV`. -/
def State.acceptedEvents (s : State) : Nat → State
  | 0 => s
  | k + 1 => (s.acceptedEvents k).handle (s.acceptedEvents k).lastEv.other

/-- The codes of wire half `j` by R202: LED `j mod (N + T)` where that is below `N`, else 24 idle codes. -/
def wireHalf (cfg : Config) (pix : Nat → Pixel) (j : Nat) : List Byte :=
  (List.range 24).map fun m =>
    if j % (cfg.n + cfg.t) < cfg.n then frameByte cfg (pix (j % (cfg.n + cfg.t))) m else 0

/-- `DECAY(i, now)` called at `now = n0`, `n0 + 1`, ..., `n0 + k - 1`. -/
def State.decayEvery (s : State) (i n0 : Nat) : Nat → State
  | 0 => s
  | k + 1 => (s.decayEvery i n0 k).decay i (n0 + k)

end Sys2Proof.Machine

/-! ## Encoding -/

/-- Decoding the word of an instruction gives the instruction back, with every operand at every value (R104 to R106, R111). -/
def Obligations.EncodedInstructionDecodes : Prop := ∀ i : Instr, decode (encode i) = .ok i

/-- A word that decodes has one meaning, and only that meaning's word decodes to it (R104 to R106, R108, R111). -/
def Obligations.DecodedWordIsItsEncoding : Prop := ∀ (p : PortWord) (i : Instr), decode p = .ok i → encode i = p

/-- "At most one row matches any word" (R106). -/
def Obligations.AtMostOneRowMatches : Prop :=
  ∀ (w : CommandWord), ∀ row ∈ decodeTable, ∀ row' ∈ decodeTable,
    row.accepts w = true → row'.accepts w = true → row = row'

/-- Words written out from R104, R105 and R111 decode to the instructions they stand for, and words R108 rules out do not. -/
def Obligations.SpelledOutWordsDecode : Prop :=
  decodeTableWord 64 0x01020000FF320000 = some (.setpix 2 0 0 255 50)
    ∧ decodeTableWord 64 0x0200B00000000000 = some (.setcol 0 0xB0 0 0)
    ∧ decodeTableWord 64 0x0300000000320000 = some (.setbrt 0 50)
    ∧ decodeTableWord 64 0x0400643200320000 = some (.setnorm 0 100 50 0 50)
    ∧ decodeTableWord 64 0x0501000000000000 = some (.getpix 1)
    ∧ decodeTableWord 64 0x1000000000000000 = some .prime
    ∧ decodeTableWord 64 0x1100000000000000 = some .start
    ∧ decodeTableWord 8 0 = some .halfDrained
    ∧ decodeTableWord 8 1 = some .fullyDrained
    ∧ decodeTableWord 64 0x0000000000000000 = none
    ∧ decodeTableWord 64 0x0600000000000000 = none
    ∧ decodeTableWord 64 0x0200000000010000 = none

/-- R108: a word that matches no row sets `REFUSED` and changes nothing else, whether it is issued whole or as the start
of a sequence. -/
def Obligations.WordOfNoCommandSetsRefusedOnly : Prop :=
  ∀ (s : State) (h : Nat) (w : CommandWord) (rest : List Turn),
    s.cfg.valid = true → s.busy h = false → (∀ row ∈ decodeTable, row.accepts w = false) →
    step { s with inputs := .whole h (.command w) :: rest } = .next { s with inputs := rest, refused := true }
      ∧ step { s with inputs := .split h (.command w) :: rest } = .next { s with inputs := rest, refused := true }

/-- R113: a written command with a wrong number of operands or an operand above 255 assembles to nothing; each mnemonic with
its operands in the range 0 to 255 assembles to a word that decodes to that command with those operands in their places. -/
def Obligations.AssembledCommandDecodes : Prop :=
  (∀ w : Written, w.operands.length ≠ w.mnemonic.arity ∨ (∃ v ∈ w.operands, 255 < v) → assemble w = none)
    ∧ ∀ idx r g b br : Byte,
      (∃ cw, assemble ⟨.setpix, [idx.toNat, r.toNat, g.toNat, b.toNat, br.toNat]⟩ = some cw
        ∧ decodeCommand cw = .ok (.setpix idx r g b br))
      ∧ (∃ cw, assemble ⟨.setcol, [idx.toNat, r.toNat, g.toNat, b.toNat]⟩ = some cw
        ∧ decodeCommand cw = .ok (.setcol idx r g b))
      ∧ (∃ cw, assemble ⟨.setbrt, [idx.toNat, br.toNat]⟩ = some cw ∧ decodeCommand cw = .ok (.setbrt idx br))
      ∧ (∃ cw, assemble ⟨.setnorm, [idx.toNat, r.toNat, g.toNat, b.toNat, br.toNat]⟩ = some cw
        ∧ decodeCommand cw = .ok (.setnorm idx r g b br))
      ∧ (∃ cw, assemble ⟨.getpix, [idx.toNat]⟩ = some cw ∧ decodeCommand cw = .ok (.getpix idx))
      ∧ (∃ cw, assemble ⟨.prime, []⟩ = some cw ∧ decodeCommand cw = .ok .prime)
      ∧ (∃ cw, assemble ⟨.start, []⟩ = some cw ∧ decodeCommand cw = .ok .start)

/-! ## Steps -/

/-- R130: when the oldest move in store brings a word to the command port from a host context that is not busy, and the
word decodes to `i`, the step is `i`'s meaning, with that move used up. That one step is all of a multi-field command, which R134
says "is not one atomic step", is the model's way of issuing a command whole: the interleaving in which no other agent steps
inside (DEDUCED, log 6). The moves in store are the model's (log 4). -/
def Obligations.StepRunsTheCommandAtThePort : Prop :=
  ∀ (s : State) (h : Nat) (w : CommandWord) (i : Instr) (rest : List Turn),
    s.cfg.valid = true → s.inputs = .whole h (.command w) :: rest → s.busy h = false → decodeCommand w = .ok i →
    step s = exec i { s with inputs := rest }

/-- R192: `SEQ_EVENT` clears `PENDING` and handles the event it held; `INJECT(e)` handles `e`, with `PENDING` unused. -/
def Obligations.StepRunsTheDeliveredEvent : Prop :=
  ∀ (s : State) (e : Event) (rest : List Turn), s.cfg.valid = true →
    (s.cfg.eventSource = .consumer → s.pending = some e → s.inputs = .sequencer :: rest →
      step s = exec (decodeEvent e.bit) { s with inputs := rest, pending := none })
    ∧ (s.cfg.eventSource = .external → s.inputs = .inject e :: rest →
      step s = exec (decodeEvent e.bit) { s with inputs := rest })

/-- The model's own (log 13): a word placed by `withFetchWord` is what the very next step runs, and the moves in store and
the sequences in progress are as before. -/
def Obligations.PlacedWordRunsNext : Prop :=
  ∀ (s : State) (nbits w : Nat) (i : Instr), s.cfg.valid = true → decodeTableWord nbits w = some i →
    (64 ≤ nbits → step (s.withFetchWord nbits w) = exec i s)
    ∧ (nbits < 64 → s.cfg.eventSource = .consumer → step (s.withFetchWord nbits w) = exec i { s with pending := none })
    ∧ (nbits < 64 → s.cfg.eventSource = .external → step (s.withFetchWord nbits w) = exec i s)

/-- R14: a configuration that breaks R7 to R10 is refused. Under any other, every step answers a next state: a handler step
completes (R200), and after a fault the agents still take steps (R285). That a move of an agent whose step is not enabled passes
is the model's DESIGN CHOICE (log 4: the spec has no such passing step); that `step` is what refuses is log 9. -/
def Obligations.OnlyABadConfigurationIsRefused : Prop :=
  ∀ s : State,
    ((3 ≤ s.cfg.n ∧ s.cfg.n ≤ 255 ∧ 2 ≤ s.cfg.t ∧ s.cfg.t ≤ 255 ∧ 0 < s.cfg.code0 ∧ s.cfg.code0 < s.cfg.code1
        ∧ s.cfg.code1 ≤ min s.cfg.period 255 ∧ s.cfg.maxB = 100) → ∃ t, step s = .next t)
    ∧ (¬(3 ≤ s.cfg.n ∧ s.cfg.n ≤ 255 ∧ 2 ≤ s.cfg.t ∧ s.cfg.t ≤ 255 ∧ 0 < s.cfg.code0 ∧ s.cfg.code0 < s.cfg.code1
        ∧ s.cfg.code1 ≤ min s.cfg.period 255 ∧ s.cfg.maxB = 100) → step s = .refused .badConfiguration)

/-! ## Pixel commands -/

/-- R135: an accepted `SETPIX` writes the four fields of its LED and nothing else. -/
def Obligations.SetpixWritesThePixel : Prop :=
  ∀ (s : State) (idx r g b br : Byte), Memory.wf s = true → idx.toNat < s.cfg.n → br.toNat ≤ 100 →
    ∃ t, exec (.setpix idx r g b br) s = .next t
      ∧ t.readPixel idx.toNat = ⟨r, g, b, br⟩
      ∧ (∀ j, j ≠ idx.toNat → t.readPixel j = s.readPixel j)
      ∧ t = { s with pix := t.pix }

/-- R140: an accepted `SETCOL` writes the colour fields; `BR` and everything else stay. -/
def Obligations.SetcolWritesTheColour : Prop :=
  ∀ (s : State) (idx r g b : Byte), Memory.wf s = true → idx.toNat < s.cfg.n →
    ∃ t, exec (.setcol idx r g b) s = .next t
      ∧ t.readPixel idx.toNat = ⟨r, g, b, (s.readPixel idx.toNat).br⟩
      ∧ (∀ j, j ≠ idx.toNat → t.readPixel j = s.readPixel j)
      ∧ t = { s with pix := t.pix }

/-- R142: an accepted `SETBRT` writes `BR`; the colour and everything else stay. -/
def Obligations.SetbrtWritesTheBrightness : Prop :=
  ∀ (s : State) (idx br : Byte), Memory.wf s = true → idx.toNat < s.cfg.n → br.toNat ≤ 100 →
    ∃ t, exec (.setbrt idx br) s = .next t
      ∧ t.readPixel idx.toNat = { s.readPixel idx.toNat with br := br }
      ∧ (∀ j, j ≠ idx.toNat → t.readPixel j = s.readPixel j)
      ∧ t = { s with pix := t.pix }

/-- R145 to R148: an accepted `SETNORM` writes each channel scaled by the target over the largest channel, rounded half
up, with all-zero input taken as full white; `BR` and everything else stay. That `BR` is not written, and that the channels
below the largest are rounded half up, is the spec's own choice (D23, 93 U18). -/
def Obligations.SetnormScalesTheColour : Prop :=
  ∀ (s : State) (idx r g b br : Byte), Memory.wf s = true → idx.toNat < s.cfg.n → br.toNat ≤ 100 →
    ∃ t tgt r0 g0 b0, exec (.setnorm idx r g b br) s = .next t
      ∧ (if r = 0 ∧ g = 0 ∧ b = 0 then r0 = 255 ∧ g0 = 255 ∧ b0 = 255
          else r0 = r.toNat ∧ g0 = g.toNat ∧ b0 = b.toNat)
      ∧ RoundsTo tgt (br.toNat * 255) 100
      ∧ RoundsTo (t.readPixel idx.toNat).r.toNat (r0 * tgt) (max r0 (max g0 b0))
      ∧ RoundsTo (t.readPixel idx.toNat).g.toNat (g0 * tgt) (max r0 (max g0 b0))
      ∧ RoundsTo (t.readPixel idx.toNat).b.toNat (b0 * tgt) (max r0 (max g0 b0))
      ∧ (t.readPixel idx.toNat).br = (s.readPixel idx.toNat).br
      ∧ (∀ j, j ≠ idx.toNat → t.readPixel j = s.readPixel j)
      ∧ t = { s with pix := t.pix }

/-- R145 to R147: the channel equal to the largest becomes exactly the target, no channel exceeds it, and all-zero input
becomes white at the target. -/
def Obligations.SetnormDrivesTheLargestChannelToTheTarget : Prop :=
  ∀ (s : State) (idx r g b br : Byte), Memory.wf s = true → idx.toNat < s.cfg.n → br.toNat ≤ 100 →
    ∃ t tgt, exec (.setnorm idx r g b br) s = .next t ∧ RoundsTo tgt (br.toNat * 255) 100
      ∧ (g.toNat ≤ r.toNat → b.toNat ≤ r.toNat → (t.readPixel idx.toNat).r.toNat = tgt)
      ∧ (r.toNat ≤ g.toNat → b.toNat ≤ g.toNat → (t.readPixel idx.toNat).g.toNat = tgt)
      ∧ (r.toNat ≤ b.toNat → g.toNat ≤ b.toNat → (t.readPixel idx.toNat).b.toNat = tgt)
      ∧ (t.readPixel idx.toNat).r.toNat ≤ tgt ∧ (t.readPixel idx.toNat).g.toNat ≤ tgt
      ∧ (t.readPixel idx.toNat).b.toNat ≤ tgt

/-- R131, R151, R110: every pixel command with `idx >= N` is a silent no-op; `GETPIX` responds with the sentinel, whose value
fields are all 0. That its colour fields are 0 too is the spec's own choice (D21, 93 U17). -/
def Obligations.IndexOutOfRangeWritesNothing : Prop :=
  ∀ (s : State) (idx r g b br : Byte), s.cfg.n ≤ idx.toNat →
    exec (.setpix idx r g b br) s = .next s
      ∧ exec (.setcol idx r g b) s = .next s
      ∧ exec (.setbrt idx br) s = .next s
      ∧ exec (.setnorm idx r g b br) s = .next s
      ∧ exec (.getpix idx) s = .next { s with resp := s.resp ++ [packWord 0x05 idx 0 0 0 0] }

/-- R132: every pixel command that carries a brightness is a silent no-op when it is above 100. -/
def Obligations.BrightnessAbove100WritesNothing : Prop :=
  ∀ (s : State) (idx r g b br : Byte), 100 < br.toNat →
    exec (.setpix idx r g b br) s = .next s
      ∧ exec (.setbrt idx br) s = .next s
      ∧ exec (.setnorm idx r g b br) s = .next s

/-- R110, R150: `GETPIX` of an LED responds with the four fields of its record, each in its place of the response word,
and changes nothing else. -/
def Obligations.GetpixRespondsWithThePixel : Prop :=
  ∀ (s : State) (idx : Byte), idx.toNat < s.cfg.n →
    ∃ w, exec (.getpix idx) s = .next { s with resp := s.resp ++ [w] }
      ∧ w.extractLsb' 56 8 = (0x05 : Byte)
      ∧ w.extractLsb' 48 8 = idx
      ∧ w.extractLsb' 40 8 = (s.readPixel idx.toNat).r
      ∧ w.extractLsb' 32 8 = (s.readPixel idx.toNat).g
      ∧ w.extractLsb' 24 8 = (s.readPixel idx.toNat).b
      ∧ w.extractLsb' 16 8 = (s.readPixel idx.toNat).br
      ∧ w.extractLsb' 0 16 = (0 : BitVec 16)

/-- R141: `SETCOL i` then `GETPIX i`, with pixel `i` not written in between (whatever else the other agents did), responds
with the colour set and the brightness from before. -/
def Obligations.SetcolThenGetpixRoundTrip : Prop :=
  ∀ (s t : State) (idx r g b : Byte), Memory.wf s = true → idx.toNat < s.cfg.n →
    ∃ u, exec (.setcol idx r g b) s = .next u
      ∧ (t.cfg = u.cfg → t.readPixel idx.toNat = u.readPixel idx.toNat →
          exec (.getpix idx) t =
            .next { t with resp := t.resp ++ [packWord 0x05 idx r g b (s.readPixel idx.toNat).br] })

/-- R143: `SETBRT i` then `GETPIX i` responds with the brightness set, or, when it was above 100, as before. -/
def Obligations.SetbrtThenGetpixRoundTrip : Prop :=
  ∀ (s t : State) (idx br : Byte), Memory.wf s = true → idx.toNat < s.cfg.n →
    ∃ u, exec (.setbrt idx br) s = .next u
      ∧ (t.cfg = u.cfg → t.readPixel idx.toNat = u.readPixel idx.toNat →
          exec (.getpix idx) t = .next { t with resp := t.resp ++
            [packWord 0x05 idx (s.readPixel idx.toNat).r (s.readPixel idx.toNat).g (s.readPixel idx.toNat).b
              (if br.toNat ≤ 100 then br else (s.readPixel idx.toNat).br)] })

/-- R81: a writing pixel command, and `PRIME` before `START`, issued twice in a row leaves the state as issuing it once. -/
def Obligations.RepeatedCommandChangesNothingMore : Prop :=
  ∀ (s : State) (idx r g b br : Byte) (i : Instr),
    (i = .setpix idx r g b br ∨ i = .setcol idx r g b ∨ i = .setbrt idx br ∨ i = .setnorm idx r g b br
      ∨ (i = .prime ∧ s.started = false)) →
    ∃ t, exec i s = .next t ∧ exec i t = .next t

/-- R133: no pixel command, run whole or begun as a sequence, sets a fault bit or `REFUSED`, or touches the transfer buffer
or a sequencer register: it changes pixels, responses and its own progress only. -/
def Obligations.PixelCommandsLeaveTheStreamAlone : Prop :=
  ∀ (s : State) (h : Nat) (i : Instr), Instr.isPixelCommand i = true →
    (∃ t, exec i s = .next t ∧ t = { s with pix := t.pix, resp := t.resp })
      ∧ (∃ t, s.beginCommand h i = .next t ∧ t = { s with pix := t.pix, resp := t.resp, tasks := t.tasks })

/-! ## The encoder -/

/-- R171 to R174, R177, R101: `ENCODE(i, h)` writes the 24 codes of LED `i`'s effective colour into half `h`, red, green,
blue, most significant bit first, and nothing else; for `i >= N` it writes nothing. -/
def Obligations.EncodeWritesTheFrame : Prop :=
  ∀ (s : State) (i : Nat) (h : Half), Memory.wf s = true →
    (i < s.cfg.n →
      (∀ k : Fin 48, (s.encodeLed i h).tb[k] =
        if halfOf k.val = h then frameByte s.cfg (s.readPixel i) (k.val % 24) else s.tb[k])
      ∧ s.encodeLed i h = { s with tb := (s.encodeLed i h).tb })
    ∧ (s.cfg.n ≤ i → s.encodeLed i h = s)

/-- R176: no light is 24 short codes, full white at full brightness 24 long codes, and white at half brightness is a short
code and seven long ones per channel. -/
def Obligations.EncodeCornerCases : Prop :=
  ∀ (s : State) (i : Nat) (h : Half) (k : Fin 48), i < s.cfg.n → halfOf k.val = h →
    ((s.readPixel i).br = 0 ∨ ((s.readPixel i).r = 0 ∧ (s.readPixel i).g = 0 ∧ (s.readPixel i).b = 0) →
      (s.encodeLed i h).tb[k] = s.cfg.shortCode)
    ∧ (s.readPixel i = ⟨255, 255, 255, 100⟩ → (s.encodeLed i h).tb[k] = s.cfg.longCode)
    ∧ (s.readPixel i = ⟨255, 255, 255, 50⟩ →
      (s.encodeLed i h).tb[k] = if k.val % 8 = 0 then s.cfg.shortCode else s.cfg.longCode)

/-- R178, R102: `ZERO_FILL(h)` writes 24 idle codes, `0x00` (D4), into half `h` and nothing else. -/
def Obligations.ZeroFillWritesIdleCodes : Prop :=
  ∀ (s : State) (h : Half),
    (∀ k : Fin 48, (s.zeroFill h).tb[k] = if halfOf k.val = h then 0 else s.tb[k])
      ∧ s.zeroFill h = { s with tb := (s.zeroFill h).tb }

/-! ## The sequencer -/

/-- R190: `PRIME` before `START` encodes LED 0 and LED 1 into the two halves, sets the sequencer's registers and `PRIMED`,
and changes nothing else. -/
def Obligations.PrimeEncodesTwoLeds : Prop :=
  ∀ s : State, s.cfg.valid = true → Memory.wf s = true → s.started = false →
    ∃ t, exec .prime s = .next t
      ∧ (∀ k : Fin 48, t.tb[k] = frameByte s.cfg (s.readPixel (k.val / 24)) (k.val % 24))
      ∧ t = { s with tb := t.tb, cursor := 2, phase := .ledData, lastEv := .full, rcount := 0, primed := true }

/-- R284: each of the three violations of the start protocol sets `F_HOST_PROTOCOL` and changes nothing else. -/
def Obligations.ProtocolViolationSetsOnlyTheFaultBit : Prop :=
  ∀ s : State,
    (s.started = true → exec .start s = .next { s with fHostProtocol := true })
      ∧ (s.primed = false → exec .start s = .next { s with fHostProtocol := true })
      ∧ (s.started = true → exec .prime s = .next { s with fHostProtocol := true })

/-- R231: `START` after `PRIME` sets `STARTED` and `RD = 0` and changes nothing else. -/
def Obligations.StartStartsTheConsumer : Prop :=
  ∀ s : State, s.started = false → s.primed = true → exec .start s = .next { s with started := true, rd := 0 }

/-- R193: a drain event whose kind equals `LAST_EV` appends one `DESYNC` record and changes nothing else. -/
def Obligations.RepeatedEventIsOnlyLogged : Prop :=
  ∀ s : State,
    (s.lastEv = .half → exec .halfDrained s = .next { s with obs := s.obs ++ [.desync .half] })
      ∧ (s.lastEv = .full → exec .fullyDrained s = .next { s with obs := s.obs ++ [.desync .full] })

/-- R194, R195: an accepted event in `LED_DATA` encodes LED `CURSOR` into the half it selects, increments `CURSOR`, and in
the same step enters `RESET_DATA` with `RCOUNT = 0` when `CURSOR` has reached `N`. That the test is made in the same step is
the spec's own reading (D8, 90_conflicts.md C2). `CURSOR < N` is R47. -/
def Obligations.LedDataEventEncodesAndAdvances : Prop :=
  ∀ (s : State) (e : Event), s.cfg.valid = true → Memory.wf s = true → s.phase = .ledData →
    s.cursor.toNat < s.cfg.n → s.lastEv ≠ e →
    ∃ t, exec (decodeEvent e.bit) s = .next t
      ∧ (∀ k : Fin 48, t.tb[k] =
          if (e = .half ∧ k.val < 24) ∨ (e = .full ∧ 24 ≤ k.val)
          then frameByte s.cfg (s.readPixel s.cursor.toNat) (k.val % 24) else s.tb[k])
      ∧ t.cursor.toNat = s.cursor.toNat + 1
      ∧ (s.cfg.n ≤ s.cursor.toNat + 1 → t.phase = .resetData ∧ t.rcount = 0)
      ∧ (s.cursor.toNat + 1 < s.cfg.n → t.phase = .ledData ∧ t.rcount = s.rcount)
      ∧ t = { s with tb := t.tb, cursor := t.cursor, phase := t.phase, rcount := t.rcount, lastEv := e }

/-- R194, R196, R197: an accepted event in `RESET_DATA` fills the half it selects with idle codes while `RCOUNT < 2`,
increments `RCOUNT`, and in the same step returns to `LED_DATA` with `CURSOR = 0` when `RCOUNT` has reached `T`. That the test
is made in the same step is the spec's own choice (R197, D8). `RCOUNT < T` is R48. -/
def Obligations.ResetDataEventFillsAndCounts : Prop :=
  ∀ (s : State) (e : Event), s.cfg.valid = true → s.phase = .resetData → s.rcount.toNat < s.cfg.t → s.lastEv ≠ e →
    ∃ t, exec (decodeEvent e.bit) s = .next t
      ∧ (∀ k : Fin 48, t.tb[k] =
          if s.rcount.toNat < 2 ∧ ((e = .half ∧ k.val < 24) ∨ (e = .full ∧ 24 ≤ k.val)) then 0 else s.tb[k])
      ∧ t.rcount.toNat = s.rcount.toNat + 1
      ∧ (s.cfg.t ≤ s.rcount.toNat + 1 → t.phase = .ledData ∧ t.cursor = 0)
      ∧ (s.rcount.toNat + 1 < s.cfg.t → t.phase = .resetData ∧ t.cursor = s.cursor)
      ∧ t = { s with tb := t.tb, cursor := t.cursor, phase := t.phase, rcount := t.rcount, lastEv := e }

/-- R200, R288: in every state the handler of every drain event completes, writes no byte of the half its event does not
select, and changes only the buffer, the sequencer's registers and the observation trace. -/
def Obligations.HandlerAlwaysCompletes : Prop :=
  ∀ (s : State) (e : Event), ∃ t, exec (decodeEvent e.bit) s = .next t
    ∧ (∀ k : Fin 48, (e = .half ∧ 24 ≤ k.val) ∨ (e = .full ∧ k.val < 24) → t.tb[k] = s.tb[k])
    ∧ t = { s with
        tb := t.tb, cursor := t.cursor, phase := t.phase, rcount := t.rcount, lastEv := t.lastEv, obs := t.obs }

/-! ## The consumer -/

/-- R233, R234: the consumer's step sends `TB[RD]` to the wire, advances `RD` modulo 48, raises `HALF_DRAINED` at byte 23
and `FULLY_DRAINED` at byte 47 into an empty `PENDING`, sets `F_EVENT_OVERRUN` where `PENDING` is full, and changes
nothing else. That a raise into a full `PENDING` is a fault that drops the event is the spec's own reading (R234, D16). -/
def Obligations.ConsumerStepReadsAndRaises : Prop :=
  ∀ (s : State) (rest : List Turn), s.cfg.valid = true → s.cfg.eventSource = .consumer → s.started = true →
    s.inputs = .consumer :: rest →
    ∃ t, step s = .next t
      ∧ t.wire = s.wire ++ [s.tb[s.rd]]
      ∧ t.rd.val = (s.rd.val + 1) % 48
      ∧ (s.rd.val ≠ 23 → s.rd.val ≠ 47 → t.pending = s.pending ∧ t.fEventOverrun = s.fEventOverrun)
      ∧ (s.rd.val = 23 → s.pending = none → t.pending = some .half ∧ t.fEventOverrun = s.fEventOverrun)
      ∧ (s.rd.val = 47 → s.pending = none → t.pending = some .full ∧ t.fEventOverrun = s.fEventOverrun)
      ∧ (s.rd.val = 23 ∨ s.rd.val = 47 → s.pending ≠ none → t.pending = s.pending ∧ t.fEventOverrun = true)
      ∧ t = { s with
          inputs := rest, wire := t.wire, rd := t.rd, pending := t.pending, fEventOverrun := t.fEventOverrun }

/-- R232, R237: before `START`, and in the `EXTERNAL` configuration, the consumer takes no step. That a consumer move then
passes, used up with nothing else changed, is the model's choice (log 4). -/
def Obligations.ConsumerWaitsUntilEnabled : Prop :=
  ∀ (s : State) (rest : List Turn), s.cfg.valid = true → s.inputs = .consumer :: rest →
    (s.started = false ∨ s.cfg.eventSource = .external) → step s = .next { s with inputs := rest }

/-- R232: with nothing left in store, an enabled consumer takes a step again within a bounded number of steps, whatever
sequences are in progress. The bound is the model's (logs 5 and 7). -/
def Obligations.ConsumerComesAgain : Prop :=
  ∀ s : State, s.cfg.valid = true → s.cfg.eventSource = .consumer → s.started = true → s.inputs = [] →
    ∃ k t, k ≤ (s.tasks.map fun task => task.todo.length + 10).sum + 2 ∧ core.run k s = .next t
      ∧ s.wire.length < t.wire.length

/-! ## Invariants -/

/-- R31, R79, R85: every step keeps the form of the storage and of the sequences in progress. -/
def Obligations.StorageInvariantIsKept : Prop :=
  ∀ s t : State, s.storageInv → step s = .next t → t.storageInv

/-- R36, R38, R47, R48: every step keeps the sequencer's invariant. -/
def Obligations.SequencerInvariantIsKept : Prop :=
  ∀ s t : State, s.sequencerInv → step s = .next t → t.sequencerInv

/-- R201, R235, R236, R237, R322: every step keeps the stream's invariant. -/
def Obligations.StreamInvariantIsKept : Prop :=
  ∀ s t : State, s.streamInv → step s = .next t → t.streamInv

/-- The invariants hold at reset, for every admitted configuration and every reset draw of R32 and R34. -/
def Obligations.ResetMeetsTheInvariants : Prop :=
  ∀ (cfg : Config) (pix : List Pixel) (tb : Vector Byte 48), cfg.valid = true → drawOk cfg pix = true →
    (State.resetWith cfg pix tb).storageInv ∧ (State.resetWith cfg pix tb).sequencerInv
      ∧ (State.resetWith cfg pix tb).streamInv

/-- R31, R47, R48, R237: in every state reachable from reset, for every admitted configuration, every reset draw and every
list of moves of the environment: no brightness is above 100; `CURSOR < N` in `LED_DATA`; `CURSOR = N` and `RCOUNT < T` in
`RESET_DATA`; and in the `EXTERNAL` configuration nothing is pending, nothing is on the wire and nothing overran. -/
def Obligations.ReachableStatesKeepTheRules : Prop :=
  ∀ (cfg : Config) (pix : List Pixel) (tb : Vector Byte 48) (moves : List Turn) (k : Nat) (t : State),
    cfg.valid = true → drawOk cfg pix = true →
    core.run k { State.resetWith cfg pix tb with inputs := moves } = .next t →
    (∀ i, (t.readPixel i).br.toNat ≤ 100)
      ∧ (t.phase = .ledData → t.cursor.toNat < cfg.n)
      ∧ (t.phase = .resetData → t.cursor.toNat = cfg.n ∧ t.rcount.toNat < cfg.t)
      ∧ (cfg.eventSource = .external → t.pending = none ∧ t.wire = [] ∧ t.fEventOverrun = false)

/-- R321, R46: the reset values the spec gives, for every configuration and every reset draw of `PIX` and `TB`;
`STATUS = 0x00000002`. -/
def Obligations.ResetLeavesTheSpecsValues : Prop :=
  ∀ (cfg : Config) (pix : List Pixel) (tb : Vector Byte 48),
    let s := State.resetWith cfg pix tb
    s.cfg = cfg ∧ s.pix = pix ∧ s.tb = tb ∧ s.phase = .ledData ∧ s.cursor = 0 ∧ s.lastEv = .full ∧ s.rcount = 0 ∧ s.primed = false ∧ s.started = false
      ∧ s.rd = 0 ∧ s.pending = none ∧ s.fEventOverrun = false ∧ s.fHostProtocol = false ∧ s.refused = false
      ∧ s.wire = [] ∧ s.obs = [] ∧ s.resp = []
      ∧ (∀ i, s.readFade i = ⟨false, 0, 0, ⟨0, 0, 0⟩, ⟨0, 0, 0⟩, 0, 0, true⟩)
      ∧ s.status = 0x00000002

/-- R46: each field of the `STATUS` view has its value in its place. -/
def Obligations.StatusViewShowsTheRegisters : Prop :=
  ∀ s : State,
    s.status.extractLsb' 0 1 = s.phase.bit
      ∧ s.status.extractLsb' 1 1 = s.lastEv.bit
      ∧ s.status.getLsbD 2 = s.primed
      ∧ s.status.getLsbD 3 = s.started
      ∧ s.status.getLsbD 4 = s.fEventOverrun
      ∧ s.status.getLsbD 5 = s.fHostProtocol
      ∧ s.status.getLsbD 6 = s.pending.isSome
      ∧ s.status.getLsbD 7 = decide (s.pending = some .full)
      ∧ s.status.extractLsb' 8 8 = s.cursor
      ∧ s.status.extractLsb' 16 8 = s.rcount
      ∧ (s.status.extractLsb' 24 6).toNat = s.rd.val
      ∧ s.status.extractLsb' 30 2 = (0 : BitVec 2)

/-- R201, R235: in a run without an overrun, a handler step of the `CONSUMER` configuration accepts its event and writes
no byte of the half the consumer is draining. The invariant is kept by every step and holds at reset. -/
def Obligations.HandlerNeverWritesTheDrainingHalf : Prop :=
  ∀ (s : State) (e : Event) (rest : List Turn), s.cfg.valid = true → s.cfg.eventSource = .consumer → s.streamInv →
    s.fEventOverrun = false → s.pending = some e → s.inputs = .sequencer :: rest →
    ∃ t, step s = .next t ∧ t.lastEv = e ∧ t.obs = s.obs
      ∧ (e = .half → 24 ≤ s.rd.val) ∧ (e = .full → s.rd.val < 24)
      ∧ (∀ k : Fin 48, (k.val < 24 ↔ s.rd.val < 24) → t.tb[k] = s.tb[k])

/-- R14, R39, R40, R43, R44: no step clears a fault bit, `REFUSED`, `PRIMED` or `STARTED`, and none writes the
configuration. -/
def Obligations.NoStepClearsAStickyBit : Prop :=
  ∀ s t : State, step s = .next t →
    t.cfg = s.cfg
      ∧ (s.fEventOverrun = true → t.fEventOverrun = true)
      ∧ (s.fHostProtocol = true → t.fHostProtocol = true)
      ∧ (s.refused = true → t.refused = true)
      ∧ (s.primed = true → t.primed = true)
      ∧ (s.started = true → t.started = true)

/-- R43, R44, R283, R284, R287: `F_EVENT_OVERRUN` is set only by a consumer step at a drain point with `PENDING` full,
`F_HOST_PROTOCOL` only by `PRIME` or `START` out of order, `REFUSED` only by a word that decodes to no command, and no step
sets both fault bits. -/
def Obligations.EachMarkIsSetOnlyByItsCause : Prop :=
  ∀ s t : State, step s = .next t →
    (s.fEventOverrun = false → t.fEventOverrun = true →
      s.nextMove.1 = .consumer ∧ s.started = true ∧ s.cfg.eventSource = .consumer
        ∧ (s.rd.val = 23 ∨ s.rd.val = 47) ∧ s.pending ≠ none)
    ∧ (s.fHostProtocol = false → t.fHostProtocol = true →
      (s.nextMove.1.isCommand .prime = true ∧ s.started = true)
        ∨ (s.nextMove.1.isCommand .start = true ∧ (s.started = true ∨ s.primed = false)))
    ∧ (s.refused = false → t.refused = true →
      ∃ h w e, decodeCommand w = .error e
        ∧ (s.nextMove.1 = .whole h (.command w) ∨ s.nextMove.1 = .split h (.command w)))
    ∧ ¬(s.fEventOverrun = false ∧ t.fEventOverrun = true ∧ s.fHostProtocol = false ∧ t.fHostProtocol = true)

/-- R45, R236: the traces are append-only, and the wire grows by at most one code per step, only in a step of an enabled
consumer. -/
def Obligations.TracesOnlyGrow : Prop :=
  ∀ s t : State, step s = .next t →
    (∃ l, t.obs = s.obs ++ l) ∧ (∃ l, t.resp = s.resp ++ l)
      ∧ (t.wire = s.wire
          ∨ (t.wire = s.wire ++ [s.tb[s.rd]] ∧ s.started = true ∧ s.cfg.eventSource = .consumer
              ∧ s.nextMove.1 = .consumer))

/-- R82, R259: a step that changes the transfer buffer is a handler step, or a `PRIME` before `START`. -/
def Obligations.OnlyPrimeAndTheHandlerWriteTheBuffer : Prop :=
  ∀ s t : State, step s = .next t → t.tb ≠ s.tb →
    (s.nextMove.1 = .sequencer ∧ s.cfg.eventSource = .consumer ∧ s.pending ≠ none)
      ∨ (∃ e, s.nextMove.1 = .inject e ∧ s.cfg.eventSource = .external)
      ∨ (s.nextMove.1.isCommand .prime = true ∧ s.started = false)

/-- R71, R288, R294: a step of the sequencer, of the consumer or of the environment changes no pixel, no fade state, no
sequence of the host in progress and no response. -/
def Obligations.HardwareStepsLeaveTheHostAlone : Prop :=
  ∀ s t : State, step s = .next t →
    (s.nextMove.1 = .sequencer ∨ s.nextMove.1 = .consumer ∨ ∃ e, s.nextMove.1 = .inject e) →
    t.pix = s.pix ∧ t.fade = s.fade ∧ t.tasks = s.tasks ∧ t.resp = s.resp

/-- R330: under `REFILL_DEADLINE`, that every raised event is handled before the consumer's next `RAISE`, be it in the last
step before it (`State.refillDeadlineFor`), `F_EVENT_OVERRUN` is never set. -/
def Obligations.RefillDeadlinePreventsOverrun : Prop :=
  ∀ (k : Nat) (s t : State), s.fEventOverrun = false → s.refillDeadlineFor k = true → core.run k s = .next t →
    t.fEventOverrun = false

/-- R332, R326, R259: from reset, a run in which the host keeps the boot order, its commands issued whole or as sequences,
never sets `F_HOST_PROTOCOL`, whatever else any agent does. -/
def Obligations.BootOrderKeepsTheProtocol : Prop :=
  ∀ (cfg : Config) (pix : List Pixel) (tb : Vector Byte 48) (moves : List Turn) (k : Nat) (t : State),
    let s := { State.resetWith cfg pix tb with inputs := moves }
    cfg.valid = true → s.bootOrderFor .fresh k = true → core.run k s = .next t → t.fHostProtocol = false

/-! ## Frames on the wire -/

/-- R203: after `k` accepted events counted from `PRIME`, with `m = (k + 2) mod (N + T)`: for `m < N` the phase is `LED_DATA`
with `CURSOR = m`, else `RESET_DATA` with `RCOUNT = m - N`. So `RESET_DATA` is entered at events `N-2 + j(N+T)` and left,
with `CURSOR = 0`, at events `N-2+T + j(N+T)`. The exact event numbers depend on the spec's own decision D8. -/
def Obligations.EventCountsOfTheFrameCycle : Prop :=
  ∀ (s p : State) (k : Nat), s.cfg.valid = true → s.started = false → exec .prime s = .next p →
    let m := (k + 2) % (s.cfg.n + s.cfg.t)
    (m < s.cfg.n → (p.acceptedEvents k).phase = .ledData ∧ (p.acceptedEvents k).cursor.toNat = m)
      ∧ (s.cfg.n ≤ m → (p.acceptedEvents k).phase = .resetData ∧ (p.acceptedEvents k).cursor.toNat = s.cfg.n
          ∧ (p.acceptedEvents k).rcount.toNat = m - s.cfg.n)

/-- R202: from a started stream with the host quiet, on the eager schedule (log 5: 24 consumer steps and a handler step per
half), the wire carries LED 0, LED 1, ..., LED `N-1`, then `T` idle halves, then LED 0 again, repeating. -/
def Obligations.WireCarriesTheFrames : Prop :=
  ∀ (s p q : State) (j : Nat), s.cfg.valid = true → s.cfg.eventSource = .consumer → Memory.wf s = true →
    s.started = false → s.pending = none → s.tasks = [] → s.inputs = [] →
    exec .prime s = .next p → exec .start p = .next q →
    ∃ t, core.run (25 * j) q = .next t
      ∧ t.wire = s.wire ++ (List.range j).flatMap (wireHalf s.cfg s.readPixel)
      ∧ t.fEventOverrun = s.fEventOverrun

/-! ## Sequences of the host -/

/-- R17, R79, R134, R252: a host action begun as a sequence and carried on with no other agent's step inside has, in every
order of its field accesses, the effect of the action run whole. The two ways of issuing an action and the elements of a
sequence are logs 6 and 7. -/
def Obligations.EveryAccessOrderGivesTheWholeEffect : Prop :=
  ∀ (s : State) (h : Nat) (a : HostAction) (order : List Nat), s.cfg.valid = true → s.busy h = false →
    10 ≤ order.length →
    ∃ b t, s.beginAction h a = .next b ∧ s.runAction a = .next t
      ∧ order.foldl (fun u k => u.advance h k) b = t

/-- R77, R79, R17: what one atomic step of a sequence in progress writes. An access of the accesses left (number `k`, modulo
their number) that writes changes its own field of the sequence's LED and no other; the `SETBRT` that `DECAY` issues changes
`BR` of its LED and nothing else of any pixel; every other step changes no pixel. A host write changes its own field of the
LED's fade record, an access of `PIX` none. That a host write, the `SETBRT` that `DECAY` issues and every other element is a step
of its own is the model's (log 7, DEDUCED and DESIGN CHOICE), and so is that a step of a host context with nothing in progress
changes nothing (log 4, DESIGN CHOICE). -/
def Obligations.SequenceStepWritesAtMostOneField : Prop :=
  ∀ (s : State) (h k : Nat), Memory.wf s = true →
    s.advance h k = { s.advance h k with
        cfg := s.cfg, tb := s.tb, phase := s.phase, cursor := s.cursor, lastEv := s.lastEv, rcount := s.rcount,
        primed := s.primed, started := s.started, rd := s.rd, pending := s.pending,
        fEventOverrun := s.fEventOverrun, fHostProtocol := s.fHostProtocol, refused := s.refused, wire := s.wire,
        obs := s.obs, inputs := s.inputs }
      ∧ (s.taskOf h = none → s.advance h k = s)
      ∧ ∀ t, s.taskOf h = some t →
        (∀ j, j ≠ t.led → (s.advance h k).readFade j = s.readFade j)
        ∧ (∀ f v, t.todo[k % t.todo.length]? = some (.write f v) →
            (t.led < s.cfg.n → (s.advance h k).readField t.led f = v)
            ∧ (∀ j f', ¬(j = t.led ∧ f' = f) → (s.advance h k).readField j f' = s.readField j f')
            ∧ (s.advance h k).fade = s.fade)
        ∧ (∀ f, t.todo[k % t.todo.length]? = some (.read f) →
            (s.advance h k).pix = s.pix ∧ (s.advance h k).fade = s.fade)
        ∧ (∀ w, t.todo[k % t.todo.length]? = some (.host w) →
            (s.advance h k).pix = s.pix
            ∧ (t.led < s.cfg.n → (s.advance h k).readFade t.led = (s.readFade t.led).put w))
        ∧ (t.todo = [] → t.after = .decaySet →
            (s.advance h k).readField (ledIndex t.led).toNat .br =
              (if (ledIndex t.led).toNat < s.cfg.n ∧ (t.got.br - 1).toNat ≤ 100 then t.got.br - 1
                else s.readField (ledIndex t.led).toNat .br)
            ∧ (∀ j f', ¬(j = (ledIndex t.led).toNat ∧ f' = .br) →
                (s.advance h k).readField j f' = s.readField j f')
            ∧ (s.advance h k).fade = s.fade)
        ∧ (t.todo = [] → t.after ≠ .decaySet → (s.advance h k).pix = s.pix)

/-- R134, R135: a torn `SETPIX`. Begun as a sequence it has written nothing; its next atomic step makes write number `k` (modulo
4) of R, G, B, BR: that field is new, the other three and every other LED are old, and nothing but the pixels and the sequence's
progress has changed, so an encoder snapshot taken there mixes old and new. That beginning is a step of its own is the model's
(log 7, DESIGN CHOICE), and so is that `k` picks the write (log 6). -/
def Obligations.BegunSetpixIsTorn : Prop :=
  ∀ (s : State) (h k : Nat) (idx r g b br : Byte), Memory.wf s = true → s.busy h = false → idx.toNat < s.cfg.n →
    br.toNat ≤ 100 →
    ∃ t, s.beginCommand h (.setpix idx r g b br) = .next t ∧ t = { s with tasks := t.tasks }
      ∧ t.advance h k = { s with pix := (t.advance h k).pix, tasks := (t.advance h k).tasks }
      ∧ ∀ f, [Field.r, .g, .b, .br][k % 4]? = some f →
        (t.advance h k).readField idx.toNat f = (⟨r, g, b, br⟩ : Pixel).get f
          ∧ ∀ j f', ¬(j = idx.toNat ∧ f' = f) → (t.advance h k).readField j f' = s.readField j f'

/-! ## The Fade Engine -/

/-- R254, R257, R260: what `setNextFadeColor` and `FADE` write, in every case. `setNextFadeColor` snapshots the stored colour
and writes the descriptor; that it reads by a `GETPIX`, which responds, is DEDUCED from R71 (log 23). Its operands, and the
stored rather than the effective colour, are the spec's own choice (R257, D34). A finished descriptor, and an index of `N` or above, make
`FADE` a no-op. At or after the end, or with no duration, it writes exactly the target and finishes. Before the end it writes
the interpolation at `t = (now - start) / dur` (`0` up to the start, where it is exactly the initial colour). That a fade of
no duration pins its target at once, and that `t = 0` before the start, is the spec's own choice (R254, D33, 93 U20). So, after
`setNextFadeColor(i, tgt, s0, d)` with `d > 0` and the LED's host fields not written since, `FADE` at `s0 + d` or later writes
the target, every `FADE` after it is a no-op, and `FADE(i, s0)` writes exactly the colour from before. -/
def Obligations.FadeStartsAndEndsExactly : Prop :=
  ∀ (s u : State) (i : Nat) (tgt : Colour) (s0 d now : Nat), s.cfg.valid = true → Memory.wf s = true →
    Memory.wf u = true → u.cfg = s.cfg →
    (s.cfg.n ≤ i → s.setNextFadeColor i tgt s0 d = s ∧ u.fadeStep i now = u)
    ∧ (i < s.cfg.n →
      ((s.setNextFadeColor i tgt s0 d).readFade i =
          { s.readFade i with
            init := ⟨s.readField i .r, s.readField i .g, s.readField i .b⟩, tgt := tgt, start := s0, dur := d,
            finished := false }
        ∧ (∀ j, j ≠ i → (s.setNextFadeColor i tgt s0 d).readFade j = s.readFade j)
        ∧ s.setNextFadeColor i tgt s0 d = { s with
            fade := (s.setNextFadeColor i tgt s0 d).fade,
            resp := s.resp ++ [packWord 0x05 (BitVec.ofNat 8 i) (s.readField i .r) (s.readField i .g) (s.readField i .b)
              (s.readField i .br)] })
      ∧ ((u.readFade i).finished = true → u.fadeStep i now = u)
      ∧ ((u.readFade i).finished = false → (u.readFade i).dur = 0 ∨ (u.readFade i).start + (u.readFade i).dur ≤ now →
        (u.fadeStep i now).readPixel i =
            ⟨(u.readFade i).tgt.r, (u.readFade i).tgt.g, (u.readFade i).tgt.b, (u.readPixel i).br⟩
          ∧ (∀ j, j ≠ i → (u.fadeStep i now).readPixel j = u.readPixel j)
          ∧ (u.fadeStep i now).readFade i = { u.readFade i with finished := true }
          ∧ (∀ j, j ≠ i → (u.fadeStep i now).readFade j = u.readFade j)
          ∧ u.fadeStep i now = { u with pix := (u.fadeStep i now).pix, fade := (u.fadeStep i now).fade }
          ∧ ∀ later, (u.fadeStep i now).fadeStep i later = u.fadeStep i now)
      ∧ ((u.readFade i).finished = false → (u.readFade i).dur ≠ 0 → now < (u.readFade i).start + (u.readFade i).dur →
        (u.fadeStep i now).readPixel i =
            ⟨fadeInterp u.cfg (u.readFade i).init.r (u.readFade i).tgt.r (now - (u.readFade i).start) (u.readFade i).dur,
              fadeInterp u.cfg (u.readFade i).init.g (u.readFade i).tgt.g (now - (u.readFade i).start) (u.readFade i).dur,
              fadeInterp u.cfg (u.readFade i).init.b (u.readFade i).tgt.b (now - (u.readFade i).start) (u.readFade i).dur,
              (u.readPixel i).br⟩
          ∧ (now ≤ (u.readFade i).start → ((u.fadeStep i now).readPixel i).colour = (u.readFade i).init)
          ∧ (∀ j, j ≠ i → (u.fadeStep i now).readPixel j = u.readPixel j)
          ∧ u.fadeStep i now = { u with pix := (u.fadeStep i now).pix })
      ∧ (0 < d → u.readFade i = (s.setNextFadeColor i tgt s0 d).readFade i →
        (s0 + d ≤ now → ((u.fadeStep i now).readPixel i).colour = tgt ∧ ((u.fadeStep i now).readFade i).finished = true
          ∧ ∀ later, (u.fadeStep i now).fadeStep i later = u.fadeStep i now)
        ∧ ((u.fadeStep i s0).readPixel i).colour = (s.readPixel i).colour
        ∧ ((u.fadeStep i s0).readFade i).finished = false))

/-- R256: with `t = num / den < 1`, the default conversion is `floor(a + (b - a) * t)`; and whatever the conversion, a fade
is exact at `t = 0` and stays between its ends. -/
def Obligations.FadeInterpolationKeepsItsBounds : Prop :=
  ∀ (cfg : Config) (a b : Byte) (num den : Nat), num < den →
    fadeInterp cfg a b 0 den = a
      ∧ min a.toNat b.toNat ≤ (fadeInterp cfg a b num den).toNat
      ∧ (fadeInterp cfg a b num den).toNat ≤ max a.toNat b.toNat
      ∧ (cfg.fadeInterp = .floor →
          ((fadeInterp cfg a b num den).toNat : Int) * den ≤ a.toNat * den + ((b.toNat : Int) - a.toNat) * num
          ∧ a.toNat * den + ((b.toNat : Int) - a.toNat) * num < ((fadeInterp cfg a b num den).toNat + 1 : Int) * den)

/-- R253: `DECAY` of a fade-enabled LED with a nonzero brightness, at or after its deadline, decrements the brightness by 1
and advances the deadline by the delay; in every other case it writes nothing. For a fade-enabled LED it reads by a `GETPIX`,
which responds; that it does is DEDUCED from R71 (log 23). -/
def Obligations.DecayDecrementsOnce : Prop :=
  ∀ (s : State) (i now : Nat), s.cfg.valid = true → Memory.wf s = true →
    let resp := s.resp ++ [packWord 0x05 (BitVec.ofNat 8 i) (s.readField i .r) (s.readField i .g) (s.readField i .b)
      (s.readField i .br)]
    (i < s.cfg.n → (s.readFade i).fadeEnabled = true → s.readField i .br ≠ 0 → (s.readFade i).nextFadeTime ≤ now →
      ((s.decay i now).readField i .br).toNat + 1 = (s.readField i .br).toNat
        ∧ (s.decay i now).readFade i =
            { s.readFade i with nextFadeTime := (s.readFade i).nextFadeTime + (s.readFade i).decayDelay }
        ∧ (∀ j f, ¬(j = i ∧ f = .br) → (s.decay i now).readField j f = s.readField j f)
        ∧ (∀ j, j ≠ i → (s.decay i now).readFade j = s.readFade j)
        ∧ s.decay i now = { s with pix := (s.decay i now).pix, fade := (s.decay i now).fade, resp := resp })
    ∧ (i < s.cfg.n → (s.readFade i).fadeEnabled = true →
        s.readField i .br = 0 ∨ now < (s.readFade i).nextFadeTime → s.decay i now = { s with resp := resp })
    ∧ (s.cfg.n ≤ i ∨ (s.readFade i).fadeEnabled = false → s.decay i now = s)

/-- R261: with `DECAY` called at every time unit from the deadline on, the brightness reaches 0 by
`n0 + (b0 - 1) * decayDelay`. The premise that the delay is at least 1 is the model's (log 20). -/
def Obligations.DecayReachesZeroInTime : Prop :=
  ∀ (s : State) (i k : Nat), s.cfg.valid = true → Memory.wf s = true → i < s.cfg.n →
    (s.readFade i).fadeEnabled = true → s.readField i .br ≠ 0 →
    ((s.readField i .br).toNat - 1) * (s.readFade i).decayDelay < k →
    1 ≤ (s.readFade i).decayDelay →
    (s.decayEvery i (s.readFade i).nextFadeTime k).readField i .br = 0

/-- R255, R258, R131, R132: the host forms of `set` and `setColorNormalized` are their commands, plus the fade fields they
write, of their own LED only; with `i >= N` or `br > 100` they do nothing. -/
def Obligations.HostFormsWriteTheFadeFields : Prop :=
  ∀ (s : State) (i : Nat) (r g b br : Byte) (f : FadeFields), s.cfg.valid = true → Memory.wf s = true →
    (i < s.cfg.n → br.toNat ≤ 100 →
      (∃ t u, exec (.setpix (BitVec.ofNat 8 i) r g b br) s = .next t
        ∧ s.runAction (.set i r g b br none) = .next t
        ∧ s.runAction (.set i r g b br (some f)) = .next u
        ∧ u.readFade i =
            { s.readFade i with
              fadeEnabled := f.fadeEnabled, decayDelay := f.decayDelay, nextFadeTime := f.nextFadeTime }
        ∧ (∀ j, j ≠ i → u.readFade j = s.readFade j)
        ∧ u = { t with fade := u.fade })
      ∧ (∃ t u, exec (.setnorm (BitVec.ofNat 8 i) r g b br) s = .next t
        ∧ s.runAction (.setNorm i r g b br) = .next u
        ∧ (br = 0 → u = t)
        ∧ (br ≠ 0 → u.readFade i = { s.readFade i with decayDelay := s.cfg.fadeOutBudget / br.toNat })
        ∧ (∀ j, j ≠ i → u.readFade j = s.readFade j)
        ∧ u = { t with fade := u.fade }))
    ∧ (s.cfg.n ≤ i ∨ 100 < br.toNat →
      s.runAction (.set i r g b br none) = .next s
        ∧ s.runAction (.set i r g b br (some f)) = .next s
        ∧ s.runAction (.setNorm i r g b br) = .next s)
end

