-- ==== Sys2Proof/Laws/PerInstr.lean ====
section
/-! SUPPORT. A fact about every instruction as syntax, one lemma per constructor: the word an instruction encodes to is a
word of its own row of the table of 30_encoding.md R106 (R111 for the events). -/

namespace Sys2Proof.Laws.TableRow

/-- The row of a command. -/
def rowOf : Instr → Option DecodeRow
  | .setpix _ _ _ _ _ => some rowSetpix
  | .setcol _ _ _ _ => some rowSetcol
  | .setbrt _ _ => some rowSetbrt
  | .setnorm _ _ _ _ _ => some rowSetnorm
  | .getpix _ => some rowGetpix
  | .prime => some rowPrime
  | .start => some rowStart
  | .halfDrained => none
  | .fullyDrained => none

/-- A command's word matches its row; an event's word is its value at the event port. -/
def Statement (i : Instr) : Prop :=
  match encode i, rowOf i with
  | .command w, some row => row.accepts w = true
  | .event w, none => decodeEvent w = i
  | _, _ => False

/-- A packed word matches a row if each bit kept by the row's mask is the row's bit. -/
theorem accepts_of_bits {row : DecodeRow} {w : CommandWord}
    (h : ∀ i, i < 64 → (w.getLsbD i && row.mask.getLsbD i) = row.pattern.getLsbD i) : row.accepts w = true := by
  simp only [DecodeRow.accepts, beq_iff_eq]
  apply BitVec.eq_of_getLsbD_eq
  intro i hi
  rw [BitVec.getLsbD_and]
  exact h i hi

theorem setpix (idx r g b br : Byte) : Statement (.setpix idx r g b br) := by
  apply accepts_of_bits
  intro i hi
  simp only [packWord, BitVec.getLsbD_append, rowSetpix]
  interval_cases i <;> simp

theorem setcol (idx r g b : Byte) : Statement (.setcol idx r g b) := by
  apply accepts_of_bits
  intro i hi
  simp only [packWord, BitVec.getLsbD_append, rowSetcol]
  interval_cases i <;> simp

theorem setbrt (idx br : Byte) : Statement (.setbrt idx br) := by
  apply accepts_of_bits
  intro i hi
  simp only [packWord, BitVec.getLsbD_append, rowSetbrt]
  interval_cases i <;> simp

theorem setnorm (idx r g b br : Byte) : Statement (.setnorm idx r g b br) := by
  apply accepts_of_bits
  intro i hi
  simp only [packWord, BitVec.getLsbD_append, rowSetnorm]
  interval_cases i <;> simp

theorem getpix (idx : Byte) : Statement (.getpix idx) := by
  apply accepts_of_bits
  intro i hi
  simp only [packWord, BitVec.getLsbD_append, rowGetpix]
  interval_cases i <;> simp

theorem prime : Statement .prime := (by decide : rowPrime.accepts (packWord 0x10 0 0 0 0 0) = true)

theorem start : Statement .start := (by decide : rowStart.accepts (packWord 0x11 0 0 0 0 0) = true)

theorem halfDrained : Statement .halfDrained := (by decide : decodeEvent 0 = .halfDrained)

theorem fullyDrained : Statement .fullyDrained := (by decide : decodeEvent 1 = .fullyDrained)

end Sys2Proof.Laws.TableRow
end

