-- ==== Sys2Proof/Laws/Encoding.lean ====
section
/-! SUPPORT. The fields of a packed word, and what a row of the decode table says of a word it accepts. -/

namespace Sys2Proof.Laws.Encoding

/-- The fields of a packed word are what it was packed from. -/
theorem fields_packWord (op idx r g b br : Byte) :
    opField (packWord op idx r g b br) = op ∧ idxField (packWord op idx r g b br) = idx
      ∧ rField (packWord op idx r g b br) = r ∧ gField (packWord op idx r g b br) = g
      ∧ bField (packWord op idx r g b br) = b ∧ brField (packWord op idx r g b br) = br := by
  refine ⟨?_, ?_, ?_, ?_, ?_, ?_⟩ <;>
  · apply BitVec.eq_of_getLsbD_eq
    intro i hi
    simp only [opField, idxField, rField, gField, bField, brField, packWord, BitVec.getLsbD_extractLsb',
      BitVec.getLsbD_append]
    interval_cases i <;> simp

/-- A word with zero in its reserved field is packed from its fields. -/
theorem packWord_fields (w : CommandWord) (h : w.extractLsb' 0 16 = (0 : BitVec 16)) :
    packWord (opField w) (idxField w) (rField w) (gField w) (bField w) (brField w) = w := by
  have hz : ∀ j (hj : j < 64), j < 16 → w[j] = false := by
    intro j hj hj16
    rw [← BitVec.getLsbD_eq_getElem]
    simpa [hj16] using congrArg (fun v => v.getLsbD j) h
  apply BitVec.eq_of_getLsbD_eq
  intro i hi
  simp only [packWord, opField, idxField, rField, gField, bField, brField, BitVec.getLsbD_append,
    BitVec.getLsbD_extractLsb']
  interval_cases i <;> simp [hz]

/-- A field that a row's mask covers is the row's, in every word the row accepts. -/
theorem field_of_accepts {row : DecodeRow} {w : CommandWord} (h : row.accepts w = true) (s n : Nat)
    (hm : ∀ i, s ≤ i → i < s + n → row.mask.getLsbD i = true) : w.extractLsb' s n = row.pattern.extractLsb' s n := by
  have h : w &&& row.mask = row.pattern := by simpa [DecodeRow.accepts] using h
  rw [← h]
  apply BitVec.eq_of_getLsbD_eq
  intro i hi
  simp [hi, hm (s + i) (by omega) (by omega)]

/-- Every row's mask covers the opcode. -/
theorem mask_covers_op : ∀ row ∈ decodeTable, ∀ i, 56 ≤ i → i < 64 → row.mask.getLsbD i = true := by
  intro row hr i h1 h2
  simp only [decodeTable, List.mem_cons, List.not_mem_nil, or_false] at hr
  interval_cases i <;> rcases hr with rfl | rfl | rfl | rfl | rfl | rfl | rfl <;> decide

/-- The opcode of a word is that of the row that accepts it. -/
theorem op_of_accepts {row : DecodeRow} (hr : row ∈ decodeTable) {w : CommandWord} (h : row.accepts w = true) :
    opField w = row.pattern.extractLsb' 56 8 :=
  field_of_accepts h 56 8 (fun i h1 h2 => mask_covers_op row hr i h1 (by omega))

/-- A word with another opcode is not accepted. -/
theorem not_accepts_of_op {row : DecodeRow} (hr : row ∈ decodeTable) {w : CommandWord}
    (h : opField w ≠ row.pattern.extractLsb' 56 8) : row.accepts w = false := by
  by_contra hc
  exact h (op_of_accepts hr (by simpa using hc))

/-- A word that no row accepts is refused by the decoder. -/
theorem decodeCommand_error {w : CommandWord} (h : ∀ row ∈ decodeTable, row.accepts w = false) :
    ∃ e, decodeCommand w = .error e := by
  simp only [decodeTable, List.forall_mem_cons] at h
  obtain ⟨h1, h2, h3, h4, h5, h6, h7, -⟩ := h
  simp only [decodeCommand, h1, h2, h3, h4, h5, h6, h7]
  cases knownOpcode (opField w) <;> simp

end Sys2Proof.Laws.Encoding
end

