-- ==== Sys2Proof/Laws/State.lean ====
section
/-! SUPPORT. One lemma per field per update of State, each true by rfl, so that no later proof unfolds a record update. -/

namespace Sys2Proof.Machine

@[simp] theorem State.writeField_cfg (s : State) (i : Nat) (f : Field) (v : Byte) : (s.writeField i f v).cfg = s.cfg := rfl
@[simp] theorem State.writeField_pix (s : State) (i : Nat) (f : Field) (v : Byte) : (s.writeField i f v).pix = s.pix.set i ((s.readPixel i).put f v) := rfl
@[simp] theorem State.writeField_tb (s : State) (i : Nat) (f : Field) (v : Byte) : (s.writeField i f v).tb = s.tb := rfl
@[simp] theorem State.writeField_phase (s : State) (i : Nat) (f : Field) (v : Byte) : (s.writeField i f v).phase = s.phase := rfl
@[simp] theorem State.writeField_cursor (s : State) (i : Nat) (f : Field) (v : Byte) : (s.writeField i f v).cursor = s.cursor := rfl
@[simp] theorem State.writeField_lastEv (s : State) (i : Nat) (f : Field) (v : Byte) : (s.writeField i f v).lastEv = s.lastEv := rfl
@[simp] theorem State.writeField_rcount (s : State) (i : Nat) (f : Field) (v : Byte) : (s.writeField i f v).rcount = s.rcount := rfl
@[simp] theorem State.writeField_primed (s : State) (i : Nat) (f : Field) (v : Byte) : (s.writeField i f v).primed = s.primed := rfl
@[simp] theorem State.writeField_started (s : State) (i : Nat) (f : Field) (v : Byte) : (s.writeField i f v).started = s.started := rfl
@[simp] theorem State.writeField_rd (s : State) (i : Nat) (f : Field) (v : Byte) : (s.writeField i f v).rd = s.rd := rfl
@[simp] theorem State.writeField_pending (s : State) (i : Nat) (f : Field) (v : Byte) : (s.writeField i f v).pending = s.pending := rfl
@[simp] theorem State.writeField_fEventOverrun (s : State) (i : Nat) (f : Field) (v : Byte) : (s.writeField i f v).fEventOverrun = s.fEventOverrun := rfl
@[simp] theorem State.writeField_fHostProtocol (s : State) (i : Nat) (f : Field) (v : Byte) : (s.writeField i f v).fHostProtocol = s.fHostProtocol := rfl
@[simp] theorem State.writeField_refused (s : State) (i : Nat) (f : Field) (v : Byte) : (s.writeField i f v).refused = s.refused := rfl
@[simp] theorem State.writeField_wire (s : State) (i : Nat) (f : Field) (v : Byte) : (s.writeField i f v).wire = s.wire := rfl
@[simp] theorem State.writeField_obs (s : State) (i : Nat) (f : Field) (v : Byte) : (s.writeField i f v).obs = s.obs := rfl
@[simp] theorem State.writeField_resp (s : State) (i : Nat) (f : Field) (v : Byte) : (s.writeField i f v).resp = s.resp := rfl
@[simp] theorem State.writeField_fade (s : State) (i : Nat) (f : Field) (v : Byte) : (s.writeField i f v).fade = s.fade := rfl
@[simp] theorem State.writeField_tasks (s : State) (i : Nat) (f : Field) (v : Byte) : (s.writeField i f v).tasks = s.tasks := rfl
@[simp] theorem State.writeField_inputs (s : State) (i : Nat) (f : Field) (v : Byte) : (s.writeField i f v).inputs = s.inputs := rfl

@[simp] theorem State.writeHalf_cfg (s : State) (h : Half) (c : Nat → Byte) : (s.writeHalf h c).cfg = s.cfg := rfl
@[simp] theorem State.writeHalf_pix (s : State) (h : Half) (c : Nat → Byte) : (s.writeHalf h c).pix = s.pix := rfl
@[simp] theorem State.writeHalf_phase (s : State) (h : Half) (c : Nat → Byte) : (s.writeHalf h c).phase = s.phase := rfl
@[simp] theorem State.writeHalf_cursor (s : State) (h : Half) (c : Nat → Byte) : (s.writeHalf h c).cursor = s.cursor := rfl
@[simp] theorem State.writeHalf_lastEv (s : State) (h : Half) (c : Nat → Byte) : (s.writeHalf h c).lastEv = s.lastEv := rfl
@[simp] theorem State.writeHalf_rcount (s : State) (h : Half) (c : Nat → Byte) : (s.writeHalf h c).rcount = s.rcount := rfl
@[simp] theorem State.writeHalf_primed (s : State) (h : Half) (c : Nat → Byte) : (s.writeHalf h c).primed = s.primed := rfl
@[simp] theorem State.writeHalf_started (s : State) (h : Half) (c : Nat → Byte) : (s.writeHalf h c).started = s.started := rfl
@[simp] theorem State.writeHalf_rd (s : State) (h : Half) (c : Nat → Byte) : (s.writeHalf h c).rd = s.rd := rfl
@[simp] theorem State.writeHalf_pending (s : State) (h : Half) (c : Nat → Byte) : (s.writeHalf h c).pending = s.pending := rfl
@[simp] theorem State.writeHalf_fEventOverrun (s : State) (h : Half) (c : Nat → Byte) : (s.writeHalf h c).fEventOverrun = s.fEventOverrun := rfl
@[simp] theorem State.writeHalf_fHostProtocol (s : State) (h : Half) (c : Nat → Byte) : (s.writeHalf h c).fHostProtocol = s.fHostProtocol := rfl
@[simp] theorem State.writeHalf_refused (s : State) (h : Half) (c : Nat → Byte) : (s.writeHalf h c).refused = s.refused := rfl
@[simp] theorem State.writeHalf_wire (s : State) (h : Half) (c : Nat → Byte) : (s.writeHalf h c).wire = s.wire := rfl
@[simp] theorem State.writeHalf_obs (s : State) (h : Half) (c : Nat → Byte) : (s.writeHalf h c).obs = s.obs := rfl
@[simp] theorem State.writeHalf_resp (s : State) (h : Half) (c : Nat → Byte) : (s.writeHalf h c).resp = s.resp := rfl
@[simp] theorem State.writeHalf_fade (s : State) (h : Half) (c : Nat → Byte) : (s.writeHalf h c).fade = s.fade := rfl
@[simp] theorem State.writeHalf_tasks (s : State) (h : Half) (c : Nat → Byte) : (s.writeHalf h c).tasks = s.tasks := rfl
@[simp] theorem State.writeHalf_inputs (s : State) (h : Half) (c : Nat → Byte) : (s.writeHalf h c).inputs = s.inputs := rfl

@[simp] theorem State.zeroFill_cfg (s : State) (h : Half) : (s.zeroFill h).cfg = s.cfg := rfl
@[simp] theorem State.zeroFill_pix (s : State) (h : Half) : (s.zeroFill h).pix = s.pix := rfl
@[simp] theorem State.zeroFill_phase (s : State) (h : Half) : (s.zeroFill h).phase = s.phase := rfl
@[simp] theorem State.zeroFill_cursor (s : State) (h : Half) : (s.zeroFill h).cursor = s.cursor := rfl
@[simp] theorem State.zeroFill_lastEv (s : State) (h : Half) : (s.zeroFill h).lastEv = s.lastEv := rfl
@[simp] theorem State.zeroFill_rcount (s : State) (h : Half) : (s.zeroFill h).rcount = s.rcount := rfl
@[simp] theorem State.zeroFill_primed (s : State) (h : Half) : (s.zeroFill h).primed = s.primed := rfl
@[simp] theorem State.zeroFill_started (s : State) (h : Half) : (s.zeroFill h).started = s.started := rfl
@[simp] theorem State.zeroFill_rd (s : State) (h : Half) : (s.zeroFill h).rd = s.rd := rfl
@[simp] theorem State.zeroFill_pending (s : State) (h : Half) : (s.zeroFill h).pending = s.pending := rfl
@[simp] theorem State.zeroFill_fEventOverrun (s : State) (h : Half) : (s.zeroFill h).fEventOverrun = s.fEventOverrun := rfl
@[simp] theorem State.zeroFill_fHostProtocol (s : State) (h : Half) : (s.zeroFill h).fHostProtocol = s.fHostProtocol := rfl
@[simp] theorem State.zeroFill_refused (s : State) (h : Half) : (s.zeroFill h).refused = s.refused := rfl
@[simp] theorem State.zeroFill_wire (s : State) (h : Half) : (s.zeroFill h).wire = s.wire := rfl
@[simp] theorem State.zeroFill_obs (s : State) (h : Half) : (s.zeroFill h).obs = s.obs := rfl
@[simp] theorem State.zeroFill_resp (s : State) (h : Half) : (s.zeroFill h).resp = s.resp := rfl
@[simp] theorem State.zeroFill_fade (s : State) (h : Half) : (s.zeroFill h).fade = s.fade := rfl
@[simp] theorem State.zeroFill_tasks (s : State) (h : Half) : (s.zeroFill h).tasks = s.tasks := rfl
@[simp] theorem State.zeroFill_inputs (s : State) (h : Half) : (s.zeroFill h).inputs = s.inputs := rfl

@[simp] theorem State.refuse_cfg (s : State) : (s.refuse).cfg = s.cfg := rfl
@[simp] theorem State.refuse_pix (s : State) : (s.refuse).pix = s.pix := rfl
@[simp] theorem State.refuse_tb (s : State) : (s.refuse).tb = s.tb := rfl
@[simp] theorem State.refuse_phase (s : State) : (s.refuse).phase = s.phase := rfl
@[simp] theorem State.refuse_cursor (s : State) : (s.refuse).cursor = s.cursor := rfl
@[simp] theorem State.refuse_lastEv (s : State) : (s.refuse).lastEv = s.lastEv := rfl
@[simp] theorem State.refuse_rcount (s : State) : (s.refuse).rcount = s.rcount := rfl
@[simp] theorem State.refuse_primed (s : State) : (s.refuse).primed = s.primed := rfl
@[simp] theorem State.refuse_started (s : State) : (s.refuse).started = s.started := rfl
@[simp] theorem State.refuse_rd (s : State) : (s.refuse).rd = s.rd := rfl
@[simp] theorem State.refuse_pending (s : State) : (s.refuse).pending = s.pending := rfl
@[simp] theorem State.refuse_fEventOverrun (s : State) : (s.refuse).fEventOverrun = s.fEventOverrun := rfl
@[simp] theorem State.refuse_fHostProtocol (s : State) : (s.refuse).fHostProtocol = s.fHostProtocol := rfl
@[simp] theorem State.refuse_refused (s : State) : (s.refuse).refused = true := rfl
@[simp] theorem State.refuse_wire (s : State) : (s.refuse).wire = s.wire := rfl
@[simp] theorem State.refuse_obs (s : State) : (s.refuse).obs = s.obs := rfl
@[simp] theorem State.refuse_resp (s : State) : (s.refuse).resp = s.resp := rfl
@[simp] theorem State.refuse_fade (s : State) : (s.refuse).fade = s.fade := rfl
@[simp] theorem State.refuse_tasks (s : State) : (s.refuse).tasks = s.tasks := rfl
@[simp] theorem State.refuse_inputs (s : State) : (s.refuse).inputs = s.inputs := rfl

@[simp] theorem State.emitWire_cfg (s : State) (c : Byte) : (s.emitWire c).cfg = s.cfg := rfl
@[simp] theorem State.emitWire_pix (s : State) (c : Byte) : (s.emitWire c).pix = s.pix := rfl
@[simp] theorem State.emitWire_tb (s : State) (c : Byte) : (s.emitWire c).tb = s.tb := rfl
@[simp] theorem State.emitWire_phase (s : State) (c : Byte) : (s.emitWire c).phase = s.phase := rfl
@[simp] theorem State.emitWire_cursor (s : State) (c : Byte) : (s.emitWire c).cursor = s.cursor := rfl
@[simp] theorem State.emitWire_lastEv (s : State) (c : Byte) : (s.emitWire c).lastEv = s.lastEv := rfl
@[simp] theorem State.emitWire_rcount (s : State) (c : Byte) : (s.emitWire c).rcount = s.rcount := rfl
@[simp] theorem State.emitWire_primed (s : State) (c : Byte) : (s.emitWire c).primed = s.primed := rfl
@[simp] theorem State.emitWire_started (s : State) (c : Byte) : (s.emitWire c).started = s.started := rfl
@[simp] theorem State.emitWire_rd (s : State) (c : Byte) : (s.emitWire c).rd = s.rd := rfl
@[simp] theorem State.emitWire_pending (s : State) (c : Byte) : (s.emitWire c).pending = s.pending := rfl
@[simp] theorem State.emitWire_fEventOverrun (s : State) (c : Byte) : (s.emitWire c).fEventOverrun = s.fEventOverrun := rfl
@[simp] theorem State.emitWire_fHostProtocol (s : State) (c : Byte) : (s.emitWire c).fHostProtocol = s.fHostProtocol := rfl
@[simp] theorem State.emitWire_refused (s : State) (c : Byte) : (s.emitWire c).refused = s.refused := rfl
@[simp] theorem State.emitWire_wire (s : State) (c : Byte) : (s.emitWire c).wire = s.wire ++ [c] := rfl
@[simp] theorem State.emitWire_obs (s : State) (c : Byte) : (s.emitWire c).obs = s.obs := rfl
@[simp] theorem State.emitWire_resp (s : State) (c : Byte) : (s.emitWire c).resp = s.resp := rfl
@[simp] theorem State.emitWire_fade (s : State) (c : Byte) : (s.emitWire c).fade = s.fade := rfl
@[simp] theorem State.emitWire_tasks (s : State) (c : Byte) : (s.emitWire c).tasks = s.tasks := rfl
@[simp] theorem State.emitWire_inputs (s : State) (c : Byte) : (s.emitWire c).inputs = s.inputs := rfl

@[simp] theorem State.emitObs_cfg (s : State) (o : Obs) : (s.emitObs o).cfg = s.cfg := rfl
@[simp] theorem State.emitObs_pix (s : State) (o : Obs) : (s.emitObs o).pix = s.pix := rfl
@[simp] theorem State.emitObs_tb (s : State) (o : Obs) : (s.emitObs o).tb = s.tb := rfl
@[simp] theorem State.emitObs_phase (s : State) (o : Obs) : (s.emitObs o).phase = s.phase := rfl
@[simp] theorem State.emitObs_cursor (s : State) (o : Obs) : (s.emitObs o).cursor = s.cursor := rfl
@[simp] theorem State.emitObs_lastEv (s : State) (o : Obs) : (s.emitObs o).lastEv = s.lastEv := rfl
@[simp] theorem State.emitObs_rcount (s : State) (o : Obs) : (s.emitObs o).rcount = s.rcount := rfl
@[simp] theorem State.emitObs_primed (s : State) (o : Obs) : (s.emitObs o).primed = s.primed := rfl
@[simp] theorem State.emitObs_started (s : State) (o : Obs) : (s.emitObs o).started = s.started := rfl
@[simp] theorem State.emitObs_rd (s : State) (o : Obs) : (s.emitObs o).rd = s.rd := rfl
@[simp] theorem State.emitObs_pending (s : State) (o : Obs) : (s.emitObs o).pending = s.pending := rfl
@[simp] theorem State.emitObs_fEventOverrun (s : State) (o : Obs) : (s.emitObs o).fEventOverrun = s.fEventOverrun := rfl
@[simp] theorem State.emitObs_fHostProtocol (s : State) (o : Obs) : (s.emitObs o).fHostProtocol = s.fHostProtocol := rfl
@[simp] theorem State.emitObs_refused (s : State) (o : Obs) : (s.emitObs o).refused = s.refused := rfl
@[simp] theorem State.emitObs_wire (s : State) (o : Obs) : (s.emitObs o).wire = s.wire := rfl
@[simp] theorem State.emitObs_obs (s : State) (o : Obs) : (s.emitObs o).obs = s.obs ++ [o] := rfl
@[simp] theorem State.emitObs_resp (s : State) (o : Obs) : (s.emitObs o).resp = s.resp := rfl
@[simp] theorem State.emitObs_fade (s : State) (o : Obs) : (s.emitObs o).fade = s.fade := rfl
@[simp] theorem State.emitObs_tasks (s : State) (o : Obs) : (s.emitObs o).tasks = s.tasks := rfl
@[simp] theorem State.emitObs_inputs (s : State) (o : Obs) : (s.emitObs o).inputs = s.inputs := rfl

@[simp] theorem State.respond_cfg (s : State) (w : CommandWord) : (s.respond w).cfg = s.cfg := rfl
@[simp] theorem State.respond_pix (s : State) (w : CommandWord) : (s.respond w).pix = s.pix := rfl
@[simp] theorem State.respond_tb (s : State) (w : CommandWord) : (s.respond w).tb = s.tb := rfl
@[simp] theorem State.respond_phase (s : State) (w : CommandWord) : (s.respond w).phase = s.phase := rfl
@[simp] theorem State.respond_cursor (s : State) (w : CommandWord) : (s.respond w).cursor = s.cursor := rfl
@[simp] theorem State.respond_lastEv (s : State) (w : CommandWord) : (s.respond w).lastEv = s.lastEv := rfl
@[simp] theorem State.respond_rcount (s : State) (w : CommandWord) : (s.respond w).rcount = s.rcount := rfl
@[simp] theorem State.respond_primed (s : State) (w : CommandWord) : (s.respond w).primed = s.primed := rfl
@[simp] theorem State.respond_started (s : State) (w : CommandWord) : (s.respond w).started = s.started := rfl
@[simp] theorem State.respond_rd (s : State) (w : CommandWord) : (s.respond w).rd = s.rd := rfl
@[simp] theorem State.respond_pending (s : State) (w : CommandWord) : (s.respond w).pending = s.pending := rfl
@[simp] theorem State.respond_fEventOverrun (s : State) (w : CommandWord) : (s.respond w).fEventOverrun = s.fEventOverrun := rfl
@[simp] theorem State.respond_fHostProtocol (s : State) (w : CommandWord) : (s.respond w).fHostProtocol = s.fHostProtocol := rfl
@[simp] theorem State.respond_refused (s : State) (w : CommandWord) : (s.respond w).refused = s.refused := rfl
@[simp] theorem State.respond_wire (s : State) (w : CommandWord) : (s.respond w).wire = s.wire := rfl
@[simp] theorem State.respond_obs (s : State) (w : CommandWord) : (s.respond w).obs = s.obs := rfl
@[simp] theorem State.respond_resp (s : State) (w : CommandWord) : (s.respond w).resp = s.resp ++ [w] := rfl
@[simp] theorem State.respond_fade (s : State) (w : CommandWord) : (s.respond w).fade = s.fade := rfl
@[simp] theorem State.respond_tasks (s : State) (w : CommandWord) : (s.respond w).tasks = s.tasks := rfl
@[simp] theorem State.respond_inputs (s : State) (w : CommandWord) : (s.respond w).inputs = s.inputs := rfl

@[simp] theorem State.takePending_cfg (s : State) : (s.takePending).cfg = s.cfg := rfl
@[simp] theorem State.takePending_pix (s : State) : (s.takePending).pix = s.pix := rfl
@[simp] theorem State.takePending_tb (s : State) : (s.takePending).tb = s.tb := rfl
@[simp] theorem State.takePending_phase (s : State) : (s.takePending).phase = s.phase := rfl
@[simp] theorem State.takePending_cursor (s : State) : (s.takePending).cursor = s.cursor := rfl
@[simp] theorem State.takePending_lastEv (s : State) : (s.takePending).lastEv = s.lastEv := rfl
@[simp] theorem State.takePending_rcount (s : State) : (s.takePending).rcount = s.rcount := rfl
@[simp] theorem State.takePending_primed (s : State) : (s.takePending).primed = s.primed := rfl
@[simp] theorem State.takePending_started (s : State) : (s.takePending).started = s.started := rfl
@[simp] theorem State.takePending_rd (s : State) : (s.takePending).rd = s.rd := rfl
@[simp] theorem State.takePending_pending (s : State) : (s.takePending).pending = none := rfl
@[simp] theorem State.takePending_fEventOverrun (s : State) : (s.takePending).fEventOverrun = s.fEventOverrun := rfl
@[simp] theorem State.takePending_fHostProtocol (s : State) : (s.takePending).fHostProtocol = s.fHostProtocol := rfl
@[simp] theorem State.takePending_refused (s : State) : (s.takePending).refused = s.refused := rfl
@[simp] theorem State.takePending_wire (s : State) : (s.takePending).wire = s.wire := rfl
@[simp] theorem State.takePending_obs (s : State) : (s.takePending).obs = s.obs := rfl
@[simp] theorem State.takePending_resp (s : State) : (s.takePending).resp = s.resp := rfl
@[simp] theorem State.takePending_fade (s : State) : (s.takePending).fade = s.fade := rfl
@[simp] theorem State.takePending_tasks (s : State) : (s.takePending).tasks = s.tasks := rfl
@[simp] theorem State.takePending_inputs (s : State) : (s.takePending).inputs = s.inputs := rfl

@[simp] theorem State.writeFade_cfg (s : State) (i : Nat) (r : FadeRec) : (s.writeFade i r).cfg = s.cfg := rfl
@[simp] theorem State.writeFade_pix (s : State) (i : Nat) (r : FadeRec) : (s.writeFade i r).pix = s.pix := rfl
@[simp] theorem State.writeFade_tb (s : State) (i : Nat) (r : FadeRec) : (s.writeFade i r).tb = s.tb := rfl
@[simp] theorem State.writeFade_phase (s : State) (i : Nat) (r : FadeRec) : (s.writeFade i r).phase = s.phase := rfl
@[simp] theorem State.writeFade_cursor (s : State) (i : Nat) (r : FadeRec) : (s.writeFade i r).cursor = s.cursor := rfl
@[simp] theorem State.writeFade_lastEv (s : State) (i : Nat) (r : FadeRec) : (s.writeFade i r).lastEv = s.lastEv := rfl
@[simp] theorem State.writeFade_rcount (s : State) (i : Nat) (r : FadeRec) : (s.writeFade i r).rcount = s.rcount := rfl
@[simp] theorem State.writeFade_primed (s : State) (i : Nat) (r : FadeRec) : (s.writeFade i r).primed = s.primed := rfl
@[simp] theorem State.writeFade_started (s : State) (i : Nat) (r : FadeRec) : (s.writeFade i r).started = s.started := rfl
@[simp] theorem State.writeFade_rd (s : State) (i : Nat) (r : FadeRec) : (s.writeFade i r).rd = s.rd := rfl
@[simp] theorem State.writeFade_pending (s : State) (i : Nat) (r : FadeRec) : (s.writeFade i r).pending = s.pending := rfl
@[simp] theorem State.writeFade_fEventOverrun (s : State) (i : Nat) (r : FadeRec) : (s.writeFade i r).fEventOverrun = s.fEventOverrun := rfl
@[simp] theorem State.writeFade_fHostProtocol (s : State) (i : Nat) (r : FadeRec) : (s.writeFade i r).fHostProtocol = s.fHostProtocol := rfl
@[simp] theorem State.writeFade_refused (s : State) (i : Nat) (r : FadeRec) : (s.writeFade i r).refused = s.refused := rfl
@[simp] theorem State.writeFade_wire (s : State) (i : Nat) (r : FadeRec) : (s.writeFade i r).wire = s.wire := rfl
@[simp] theorem State.writeFade_obs (s : State) (i : Nat) (r : FadeRec) : (s.writeFade i r).obs = s.obs := rfl
@[simp] theorem State.writeFade_resp (s : State) (i : Nat) (r : FadeRec) : (s.writeFade i r).resp = s.resp := rfl
@[simp] theorem State.writeFade_fade (s : State) (i : Nat) (r : FadeRec) : (s.writeFade i r).fade = s.fade.set i r := rfl
@[simp] theorem State.writeFade_tasks (s : State) (i : Nat) (r : FadeRec) : (s.writeFade i r).tasks = s.tasks := rfl
@[simp] theorem State.writeFade_inputs (s : State) (i : Nat) (r : FadeRec) : (s.writeFade i r).inputs = s.inputs := rfl

/-! ### `State.putFade` -/

@[simp] theorem State.putFade_cfg (s : State) (i : Nat) (w : FadeWrite) : (s.putFade i w).cfg = s.cfg := rfl
@[simp] theorem State.putFade_pix (s : State) (i : Nat) (w : FadeWrite) : (s.putFade i w).pix = s.pix := rfl
@[simp] theorem State.putFade_tb (s : State) (i : Nat) (w : FadeWrite) : (s.putFade i w).tb = s.tb := rfl
@[simp] theorem State.putFade_phase (s : State) (i : Nat) (w : FadeWrite) : (s.putFade i w).phase = s.phase := rfl
@[simp] theorem State.putFade_cursor (s : State) (i : Nat) (w : FadeWrite) : (s.putFade i w).cursor = s.cursor := rfl
@[simp] theorem State.putFade_lastEv (s : State) (i : Nat) (w : FadeWrite) : (s.putFade i w).lastEv = s.lastEv := rfl
@[simp] theorem State.putFade_rcount (s : State) (i : Nat) (w : FadeWrite) : (s.putFade i w).rcount = s.rcount := rfl
@[simp] theorem State.putFade_primed (s : State) (i : Nat) (w : FadeWrite) : (s.putFade i w).primed = s.primed := rfl
@[simp] theorem State.putFade_started (s : State) (i : Nat) (w : FadeWrite) : (s.putFade i w).started = s.started := rfl
@[simp] theorem State.putFade_rd (s : State) (i : Nat) (w : FadeWrite) : (s.putFade i w).rd = s.rd := rfl
@[simp] theorem State.putFade_pending (s : State) (i : Nat) (w : FadeWrite) : (s.putFade i w).pending = s.pending := rfl
@[simp] theorem State.putFade_fEventOverrun (s : State) (i : Nat) (w : FadeWrite) : (s.putFade i w).fEventOverrun = s.fEventOverrun := rfl
@[simp] theorem State.putFade_fHostProtocol (s : State) (i : Nat) (w : FadeWrite) : (s.putFade i w).fHostProtocol = s.fHostProtocol := rfl
@[simp] theorem State.putFade_refused (s : State) (i : Nat) (w : FadeWrite) : (s.putFade i w).refused = s.refused := rfl
@[simp] theorem State.putFade_wire (s : State) (i : Nat) (w : FadeWrite) : (s.putFade i w).wire = s.wire := rfl
@[simp] theorem State.putFade_obs (s : State) (i : Nat) (w : FadeWrite) : (s.putFade i w).obs = s.obs := rfl
@[simp] theorem State.putFade_resp (s : State) (i : Nat) (w : FadeWrite) : (s.putFade i w).resp = s.resp := rfl
@[simp] theorem State.putFade_fade (s : State) (i : Nat) (w : FadeWrite) : (s.putFade i w).fade = s.fade.set i ((s.readFade i).put w) := rfl
@[simp] theorem State.putFade_tasks (s : State) (i : Nat) (w : FadeWrite) : (s.putFade i w).tasks = s.tasks := rfl
@[simp] theorem State.putFade_inputs (s : State) (i : Nat) (w : FadeWrite) : (s.putFade i w).inputs = s.inputs := rfl

@[simp] theorem State.dropTask_cfg (s : State) (h : Nat) : (s.dropTask h).cfg = s.cfg := rfl
@[simp] theorem State.dropTask_pix (s : State) (h : Nat) : (s.dropTask h).pix = s.pix := rfl
@[simp] theorem State.dropTask_tb (s : State) (h : Nat) : (s.dropTask h).tb = s.tb := rfl
@[simp] theorem State.dropTask_phase (s : State) (h : Nat) : (s.dropTask h).phase = s.phase := rfl
@[simp] theorem State.dropTask_cursor (s : State) (h : Nat) : (s.dropTask h).cursor = s.cursor := rfl
@[simp] theorem State.dropTask_lastEv (s : State) (h : Nat) : (s.dropTask h).lastEv = s.lastEv := rfl
@[simp] theorem State.dropTask_rcount (s : State) (h : Nat) : (s.dropTask h).rcount = s.rcount := rfl
@[simp] theorem State.dropTask_primed (s : State) (h : Nat) : (s.dropTask h).primed = s.primed := rfl
@[simp] theorem State.dropTask_started (s : State) (h : Nat) : (s.dropTask h).started = s.started := rfl
@[simp] theorem State.dropTask_rd (s : State) (h : Nat) : (s.dropTask h).rd = s.rd := rfl
@[simp] theorem State.dropTask_pending (s : State) (h : Nat) : (s.dropTask h).pending = s.pending := rfl
@[simp] theorem State.dropTask_fEventOverrun (s : State) (h : Nat) : (s.dropTask h).fEventOverrun = s.fEventOverrun := rfl
@[simp] theorem State.dropTask_fHostProtocol (s : State) (h : Nat) : (s.dropTask h).fHostProtocol = s.fHostProtocol := rfl
@[simp] theorem State.dropTask_refused (s : State) (h : Nat) : (s.dropTask h).refused = s.refused := rfl
@[simp] theorem State.dropTask_wire (s : State) (h : Nat) : (s.dropTask h).wire = s.wire := rfl
@[simp] theorem State.dropTask_obs (s : State) (h : Nat) : (s.dropTask h).obs = s.obs := rfl
@[simp] theorem State.dropTask_resp (s : State) (h : Nat) : (s.dropTask h).resp = s.resp := rfl
@[simp] theorem State.dropTask_fade (s : State) (h : Nat) : (s.dropTask h).fade = s.fade := rfl
@[simp] theorem State.dropTask_tasks (s : State) (h : Nat) : (s.dropTask h).tasks = s.tasks.filter (fun t => t.host != h) := rfl
@[simp] theorem State.dropTask_inputs (s : State) (h : Nat) : (s.dropTask h).inputs = s.inputs := rfl

@[simp] theorem State.putTask_cfg (s : State) (t : Task) : (s.putTask t).cfg = s.cfg := rfl
@[simp] theorem State.putTask_pix (s : State) (t : Task) : (s.putTask t).pix = s.pix := rfl
@[simp] theorem State.putTask_tb (s : State) (t : Task) : (s.putTask t).tb = s.tb := rfl
@[simp] theorem State.putTask_phase (s : State) (t : Task) : (s.putTask t).phase = s.phase := rfl
@[simp] theorem State.putTask_cursor (s : State) (t : Task) : (s.putTask t).cursor = s.cursor := rfl
@[simp] theorem State.putTask_lastEv (s : State) (t : Task) : (s.putTask t).lastEv = s.lastEv := rfl
@[simp] theorem State.putTask_rcount (s : State) (t : Task) : (s.putTask t).rcount = s.rcount := rfl
@[simp] theorem State.putTask_primed (s : State) (t : Task) : (s.putTask t).primed = s.primed := rfl
@[simp] theorem State.putTask_started (s : State) (t : Task) : (s.putTask t).started = s.started := rfl
@[simp] theorem State.putTask_rd (s : State) (t : Task) : (s.putTask t).rd = s.rd := rfl
@[simp] theorem State.putTask_pending (s : State) (t : Task) : (s.putTask t).pending = s.pending := rfl
@[simp] theorem State.putTask_fEventOverrun (s : State) (t : Task) : (s.putTask t).fEventOverrun = s.fEventOverrun := rfl
@[simp] theorem State.putTask_fHostProtocol (s : State) (t : Task) : (s.putTask t).fHostProtocol = s.fHostProtocol := rfl
@[simp] theorem State.putTask_refused (s : State) (t : Task) : (s.putTask t).refused = s.refused := rfl
@[simp] theorem State.putTask_wire (s : State) (t : Task) : (s.putTask t).wire = s.wire := rfl
@[simp] theorem State.putTask_obs (s : State) (t : Task) : (s.putTask t).obs = s.obs := rfl
@[simp] theorem State.putTask_resp (s : State) (t : Task) : (s.putTask t).resp = s.resp := rfl
@[simp] theorem State.putTask_fade (s : State) (t : Task) : (s.putTask t).fade = s.fade := rfl
@[simp] theorem State.putTask_tasks (s : State) (t : Task) : (s.putTask t).tasks = t :: s.tasks.filter (fun u => u.host != t.host) := rfl
@[simp] theorem State.putTask_inputs (s : State) (t : Task) : (s.putTask t).inputs = s.inputs := rfl

@[simp] theorem State.raiseFault_eventOverrun_cfg (s : State) : (s.raiseFault .eventOverrun).cfg = s.cfg := rfl
@[simp] theorem State.raiseFault_eventOverrun_pix (s : State) : (s.raiseFault .eventOverrun).pix = s.pix := rfl
@[simp] theorem State.raiseFault_eventOverrun_tb (s : State) : (s.raiseFault .eventOverrun).tb = s.tb := rfl
@[simp] theorem State.raiseFault_eventOverrun_phase (s : State) : (s.raiseFault .eventOverrun).phase = s.phase := rfl
@[simp] theorem State.raiseFault_eventOverrun_cursor (s : State) : (s.raiseFault .eventOverrun).cursor = s.cursor := rfl
@[simp] theorem State.raiseFault_eventOverrun_lastEv (s : State) : (s.raiseFault .eventOverrun).lastEv = s.lastEv := rfl
@[simp] theorem State.raiseFault_eventOverrun_rcount (s : State) : (s.raiseFault .eventOverrun).rcount = s.rcount := rfl
@[simp] theorem State.raiseFault_eventOverrun_primed (s : State) : (s.raiseFault .eventOverrun).primed = s.primed := rfl
@[simp] theorem State.raiseFault_eventOverrun_started (s : State) : (s.raiseFault .eventOverrun).started = s.started := rfl
@[simp] theorem State.raiseFault_eventOverrun_rd (s : State) : (s.raiseFault .eventOverrun).rd = s.rd := rfl
@[simp] theorem State.raiseFault_eventOverrun_pending (s : State) : (s.raiseFault .eventOverrun).pending = s.pending := rfl
@[simp] theorem State.raiseFault_eventOverrun_fEventOverrun (s : State) : (s.raiseFault .eventOverrun).fEventOverrun = true := rfl
@[simp] theorem State.raiseFault_eventOverrun_fHostProtocol (s : State) : (s.raiseFault .eventOverrun).fHostProtocol = s.fHostProtocol := rfl
@[simp] theorem State.raiseFault_eventOverrun_refused (s : State) : (s.raiseFault .eventOverrun).refused = s.refused := rfl
@[simp] theorem State.raiseFault_eventOverrun_wire (s : State) : (s.raiseFault .eventOverrun).wire = s.wire := rfl
@[simp] theorem State.raiseFault_eventOverrun_obs (s : State) : (s.raiseFault .eventOverrun).obs = s.obs := rfl
@[simp] theorem State.raiseFault_eventOverrun_resp (s : State) : (s.raiseFault .eventOverrun).resp = s.resp := rfl
@[simp] theorem State.raiseFault_eventOverrun_fade (s : State) : (s.raiseFault .eventOverrun).fade = s.fade := rfl
@[simp] theorem State.raiseFault_eventOverrun_tasks (s : State) : (s.raiseFault .eventOverrun).tasks = s.tasks := rfl
@[simp] theorem State.raiseFault_eventOverrun_inputs (s : State) : (s.raiseFault .eventOverrun).inputs = s.inputs := rfl

@[simp] theorem State.raiseFault_hostProtocol_cfg (s : State) : (s.raiseFault .hostProtocol).cfg = s.cfg := rfl
@[simp] theorem State.raiseFault_hostProtocol_pix (s : State) : (s.raiseFault .hostProtocol).pix = s.pix := rfl
@[simp] theorem State.raiseFault_hostProtocol_tb (s : State) : (s.raiseFault .hostProtocol).tb = s.tb := rfl
@[simp] theorem State.raiseFault_hostProtocol_phase (s : State) : (s.raiseFault .hostProtocol).phase = s.phase := rfl
@[simp] theorem State.raiseFault_hostProtocol_cursor (s : State) : (s.raiseFault .hostProtocol).cursor = s.cursor := rfl
@[simp] theorem State.raiseFault_hostProtocol_lastEv (s : State) : (s.raiseFault .hostProtocol).lastEv = s.lastEv := rfl
@[simp] theorem State.raiseFault_hostProtocol_rcount (s : State) : (s.raiseFault .hostProtocol).rcount = s.rcount := rfl
@[simp] theorem State.raiseFault_hostProtocol_primed (s : State) : (s.raiseFault .hostProtocol).primed = s.primed := rfl
@[simp] theorem State.raiseFault_hostProtocol_started (s : State) : (s.raiseFault .hostProtocol).started = s.started := rfl
@[simp] theorem State.raiseFault_hostProtocol_rd (s : State) : (s.raiseFault .hostProtocol).rd = s.rd := rfl
@[simp] theorem State.raiseFault_hostProtocol_pending (s : State) : (s.raiseFault .hostProtocol).pending = s.pending := rfl
@[simp] theorem State.raiseFault_hostProtocol_fEventOverrun (s : State) : (s.raiseFault .hostProtocol).fEventOverrun = s.fEventOverrun := rfl
@[simp] theorem State.raiseFault_hostProtocol_fHostProtocol (s : State) : (s.raiseFault .hostProtocol).fHostProtocol = true := rfl
@[simp] theorem State.raiseFault_hostProtocol_refused (s : State) : (s.raiseFault .hostProtocol).refused = s.refused := rfl
@[simp] theorem State.raiseFault_hostProtocol_wire (s : State) : (s.raiseFault .hostProtocol).wire = s.wire := rfl
@[simp] theorem State.raiseFault_hostProtocol_obs (s : State) : (s.raiseFault .hostProtocol).obs = s.obs := rfl
@[simp] theorem State.raiseFault_hostProtocol_resp (s : State) : (s.raiseFault .hostProtocol).resp = s.resp := rfl
@[simp] theorem State.raiseFault_hostProtocol_fade (s : State) : (s.raiseFault .hostProtocol).fade = s.fade := rfl
@[simp] theorem State.raiseFault_hostProtocol_tasks (s : State) : (s.raiseFault .hostProtocol).tasks = s.tasks := rfl
@[simp] theorem State.raiseFault_hostProtocol_inputs (s : State) : (s.raiseFault .hostProtocol).inputs = s.inputs := rfl

end Sys2Proof.Machine
end

