-- ==== Sys2Proof/Laws/Ops.lean ====
section
/-! SUPPORT. For each shared operation, what it changes and what it leaves alone: read after write, the frame of each
operation as one equation, and the cases of those that branch. -/

namespace Sys2Proof.Machine

/-! ### Pixel records -/

@[simp] theorem Pixel.get_put_same (p : Pixel) (f : Field) (v : Byte) : (p.put f v).get f = v := by
  cases f <;> rfl

theorem Pixel.get_put_other (p : Pixel) {f f' : Field} (v : Byte) (h : f' ≠ f) : (p.put f v).get f' = p.get f' := by
  cases f <;> cases f' <;> first | rfl | exact absurd rfl h

theorem Pixel.ext_get {p q : Pixel} (h : ∀ f, p.get f = q.get f) : p = q := by
  obtain ⟨a, b, c, d⟩ := p
  obtain ⟨a', b', c', d'⟩ := q
  have hr := h .r
  have hg := h .g
  have hb := h .b
  have hbr := h .br
  simp_all [Pixel.get]

@[simp] theorem State.readPixel_writeField_same (s : State) {i : Nat} (f : Field) (v : Byte) (h : i < s.pix.length) :
    (s.writeField i f v).readPixel i = (s.readPixel i).put f v := by
  simp [State.readPixel, h]

theorem State.readPixel_writeField_other (s : State) {i j : Nat} (f : Field) (v : Byte) (h : j ≠ i) :
    (s.writeField i f v).readPixel j = s.readPixel j := by
  simp [State.readPixel, List.getD, Ne.symm h]

/-- Several field writes change `PIX` and nothing else. -/
theorem State.writeFields_frame (s : State) (i : Nat) (ws : List (Field × Byte)) :
    s.writeFields i ws = { s with pix := (s.writeFields i ws).pix } := by
  induction ws generalizing s with
  | nil => rfl
  | cons w ws ih =>
    have h := ih (s.writeField i w.1 w.2)
    simpa [State.writeFields, State.writeField] using h

theorem State.writeFields_pix_length (s : State) (i : Nat) (ws : List (Field × Byte)) :
    (s.writeFields i ws).pix.length = s.pix.length := by
  induction ws generalizing s with
  | nil => rfl
  | cons w ws ih => simpa [State.writeFields] using ih (s.writeField i w.1 w.2)

/-- Field writes leave every other LED's record alone. -/
theorem State.readPixel_writeFields_other (s : State) {i j : Nat} (ws : List (Field × Byte)) (h : j ≠ i) :
    (s.writeFields i ws).readPixel j = s.readPixel j := by
  induction ws generalizing s with
  | nil => rfl
  | cons w ws ih =>
    have h' := ih (s.writeField i w.1 w.2)
    rw [State.readPixel_writeField_other s w.1 w.2 h] at h'
    simpa [State.writeFields] using h'

/-- Field writes change their LED's record field by field. -/
theorem State.readPixel_writeFields_same (s : State) {i : Nat} (ws : List (Field × Byte)) (h : i < s.pix.length) :
    (s.writeFields i ws).readPixel i = ws.foldl (fun p w => p.put w.1 w.2) (s.readPixel i) := by
  induction ws generalizing s with
  | nil => rfl
  | cons w ws ih =>
    have h' := ih (s.writeField i w.1 w.2) (by simpa using h)
    rw [State.readPixel_writeField_same s w.1 w.2 h] at h'
    simpa [State.writeFields] using h'

/-! ### The transfer buffer -/

/-- Read after write: the written half holds the codes, the other half is unchanged. -/
@[simp] theorem State.writeHalf_tb_get (s : State) (h : Half) (c : Nat → Byte) (k : Nat) (hk : k < 48) :
    (s.writeHalf h c).tb[k] = if halfOf k = h then c (k % 24) else s.tb[k] := by
  simp [State.writeHalf]

theorem State.encodeLed_frame (s : State) (i : Nat) (h : Half) :
    s.encodeLed i h = { s with tb := (s.encodeLed i h).tb } := by
  unfold State.encodeLed
  split <;> rfl

theorem State.encodeLed_tb_get (s : State) (i : Nat) (h : Half) (k : Nat) (hk : k < 48) :
    (s.encodeLed i h).tb[k] =
      if halfOf k = h ∧ i < s.cfg.n then frameCode s.cfg (s.readPixel i).ledWord (k % 24) else s.tb[k] := by
  unfold State.encodeLed
  by_cases hi : i < s.cfg.n <;> simp [hi]

/-! ### Raising and handling drain events -/

/-- `RAISE` changes `PENDING` or the overrun bit, never both. -/
theorem State.raiseEvent_cases (s : State) (e : Event) :
    (s.pending = none ∧ s.raiseEvent e = { s with pending := some e })
      ∨ (s.pending.isSome ∧ s.raiseEvent e = { s with fEventOverrun := true }) := by
  unfold State.raiseEvent
  cases h : s.pending with
  | none => exact .inl ⟨rfl, rfl⟩
  | some e' => exact .inr ⟨rfl, by simp [State.raiseFault, h]⟩

/-- The consumer's step as one record update. -/
theorem State.consume_eq (s : State) :
    s.consume = { s with
      wire := s.wire ++ [s.readTB s.rd], rd := s.rd + 1,
      pending := if (drainPoint s.rd).isSome ∧ s.pending = none then drainPoint s.rd else s.pending,
      fEventOverrun := s.fEventOverrun || ((drainPoint s.rd).isSome && s.pending.isSome) } := by
  unfold State.consume State.raiseAt
  cases hd : drainPoint s.rd with
  | none => simp [hd, State.emitWire]
  | some e =>
    rcases h : s.pending with _ | e'
    · simp [hd, State.raiseEvent, State.emitWire, h]
    · simp [hd, State.raiseEvent, State.emitWire, State.raiseFault, h]

theorem State.ledEvent_frame (s : State) (h : Half) :
    s.ledEvent h = { s with
      tb := (s.ledEvent h).tb, cursor := (s.ledEvent h).cursor, phase := (s.ledEvent h).phase,
      rcount := (s.ledEvent h).rcount } := by
  have he := State.encodeLed_frame s s.cursor.toNat h
  unfold State.ledEvent
  rw [he]
  dsimp only
  split <;> rfl

theorem State.resetEvent_frame (s : State) (h : Half) :
    s.resetEvent h = { s with
      tb := (s.resetEvent h).tb, cursor := (s.resetEvent h).cursor, phase := (s.resetEvent h).phase,
      rcount := (s.resetEvent h).rcount } := by
  unfold State.resetEvent
  dsimp only
  split <;> split <;> rfl

/-- The handler changes the transfer buffer, the sequencer's registers and the observation trace, and nothing else. -/
theorem State.handle_frame (s : State) (e : Event) :
    s.handle e = { s with
      tb := (s.handle e).tb, phase := (s.handle e).phase, cursor := (s.handle e).cursor,
      lastEv := (s.handle e).lastEv, rcount := (s.handle e).rcount, obs := (s.handle e).obs } := by
  unfold State.handle
  split
  · rfl
  · dsimp only
    cases s.phase with
    | ledData => dsimp only; rw [State.ledEvent_frame]
    | resetData => dsimp only; rw [State.resetEvent_frame]

/-- The three ways an event is handled. -/
theorem State.handle_cases (s : State) (e : Event) :
    (e = s.lastEv ∧ s.handle e = s.emitObs (.desync e))
      ∨ (e ≠ s.lastEv ∧ s.phase = .ledData ∧ s.handle e = ({ s with lastEv := e } : State).ledEvent e.vacated)
      ∨ (e ≠ s.lastEv ∧ s.phase = .resetData ∧ s.handle e = ({ s with lastEv := e } : State).resetEvent e.vacated) := by
  unfold State.handle
  by_cases h : e = s.lastEv
  · simp [h]
  · cases hp : s.phase <;> simp [h]

theorem State.ledEvent_eq (s : State) (h : Half) :
    s.ledEvent h = { s with
      tb := (s.encodeLed s.cursor.toNat h).tb, cursor := s.cursor + 1,
      phase := if s.cfg.n ≤ (s.cursor + 1).toNat then .resetData else s.phase,
      rcount := if s.cfg.n ≤ (s.cursor + 1).toNat then 0 else s.rcount } := by
  have he := State.encodeLed_frame s s.cursor.toNat h
  unfold State.ledEvent
  rw [he]
  dsimp only
  split <;> rfl

theorem State.resetEvent_eq (s : State) (h : Half) :
    s.resetEvent h = { s with
      tb := if s.rcount.toNat < zfillEvents then (s.zeroFill h).tb else s.tb, rcount := s.rcount + 1,
      cursor := if s.cfg.t ≤ (s.rcount + 1).toNat then 0 else s.cursor,
      phase := if s.cfg.t ≤ (s.rcount + 1).toNat then .ledData else s.phase } := by
  unfold State.resetEvent State.zeroFill State.writeHalf
  by_cases h1 : s.rcount.toNat < zfillEvents
  · simp only [if_pos h1]
    split <;> rfl
  · simp only [if_neg h1]
    split <;> rfl

theorem State.primeBuffers_eq (s : State) :
    s.primeBuffers = { s with
      tb := ((s.encodeLed 0 .first).encodeLed 1 .second).tb, cursor := 2, phase := .ledData, lastEv := .full,
      rcount := 0, primed := true } := by
  unfold State.primeBuffers
  rw [State.encodeLed_frame (s.encodeLed 0 .first), State.encodeLed_frame s 0 .first]

/-! ### Pixel commands and host operations -/

theorem State.setPixel_frame (s : State) (idx : Byte) (p : Pixel) :
    s.setPixel idx p = { s with pix := (s.setPixel idx p).pix } := by
  unfold State.setPixel
  split
  · exact State.writeFields_frame s idx.toNat (pixelWrites p)
  · rfl

theorem State.setColour_frame (s : State) (idx : Byte) (c : Colour) :
    s.setColour idx c = { s with pix := (s.setColour idx c).pix } := by
  unfold State.setColour
  split
  · exact State.writeFields_frame s idx.toNat (colourWrites c)
  · rfl

theorem State.setNorm_frame (s : State) (idx r g b br : Byte) :
    s.setNorm idx r g b br = { s with pix := (s.setNorm idx r g b br).pix } := by
  unfold State.setNorm
  split
  · exact State.writeFields_frame s idx.toNat (colourWrites (normColour r g b br))
  · rfl

theorem State.setBrightness_frame (s : State) (idx br : Byte) :
    s.setBrightness idx br = { s with pix := (s.setBrightness idx br).pix } := by
  unfold State.setBrightness
  split <;> rfl

/-! ### Sequences in progress -/

/-- A host context that is not busy has nothing among the sequences in progress. -/
theorem State.filter_of_not_busy (s : State) (h : Nat) (hb : s.busy h = false) :
    s.tasks.filter (fun t => t.host != h) = s.tasks := by
  apply List.filter_eq_self.2
  intro t ht
  by_contra hc
  have hh : t.host = h := by simpa using hc
  have : s.busy h = true := by
    simp only [State.busy, State.taskOf, List.find?_isSome]
    exact ⟨t, ht, by simp [hh]⟩
  simp [hb] at this

theorem State.taskOf_putTask (s : State) (t : Task) : (s.putTask t).taskOf t.host = some t := by
  simp [State.taskOf, State.putTask]

end Sys2Proof.Machine
end

