-- ==== Sys2Proof/Laws/Frames.lean ====
section
/-! SUPPORT. The fields each composite operation leaves alone, read off its frame equation (Laws/Ops.lean). -/

namespace Sys2Proof.Machine

@[simp] theorem State.writeFields_cfg (s : State) (i : Nat) (ws : List (Field × Byte)) : (s.writeFields i ws).cfg = s.cfg := by rw [State.writeFields_frame]
@[simp] theorem State.writeFields_tb (s : State) (i : Nat) (ws : List (Field × Byte)) : (s.writeFields i ws).tb = s.tb := by rw [State.writeFields_frame]
@[simp] theorem State.writeFields_phase (s : State) (i : Nat) (ws : List (Field × Byte)) : (s.writeFields i ws).phase = s.phase := by rw [State.writeFields_frame]
@[simp] theorem State.writeFields_cursor (s : State) (i : Nat) (ws : List (Field × Byte)) : (s.writeFields i ws).cursor = s.cursor := by rw [State.writeFields_frame]
@[simp] theorem State.writeFields_lastEv (s : State) (i : Nat) (ws : List (Field × Byte)) : (s.writeFields i ws).lastEv = s.lastEv := by rw [State.writeFields_frame]
@[simp] theorem State.writeFields_rcount (s : State) (i : Nat) (ws : List (Field × Byte)) : (s.writeFields i ws).rcount = s.rcount := by rw [State.writeFields_frame]
@[simp] theorem State.writeFields_primed (s : State) (i : Nat) (ws : List (Field × Byte)) : (s.writeFields i ws).primed = s.primed := by rw [State.writeFields_frame]
@[simp] theorem State.writeFields_started (s : State) (i : Nat) (ws : List (Field × Byte)) : (s.writeFields i ws).started = s.started := by rw [State.writeFields_frame]
@[simp] theorem State.writeFields_rd (s : State) (i : Nat) (ws : List (Field × Byte)) : (s.writeFields i ws).rd = s.rd := by rw [State.writeFields_frame]
@[simp] theorem State.writeFields_pending (s : State) (i : Nat) (ws : List (Field × Byte)) : (s.writeFields i ws).pending = s.pending := by rw [State.writeFields_frame]
@[simp] theorem State.writeFields_fEventOverrun (s : State) (i : Nat) (ws : List (Field × Byte)) : (s.writeFields i ws).fEventOverrun = s.fEventOverrun := by rw [State.writeFields_frame]
@[simp] theorem State.writeFields_fHostProtocol (s : State) (i : Nat) (ws : List (Field × Byte)) : (s.writeFields i ws).fHostProtocol = s.fHostProtocol := by rw [State.writeFields_frame]
@[simp] theorem State.writeFields_refused (s : State) (i : Nat) (ws : List (Field × Byte)) : (s.writeFields i ws).refused = s.refused := by rw [State.writeFields_frame]
@[simp] theorem State.writeFields_wire (s : State) (i : Nat) (ws : List (Field × Byte)) : (s.writeFields i ws).wire = s.wire := by rw [State.writeFields_frame]
@[simp] theorem State.writeFields_obs (s : State) (i : Nat) (ws : List (Field × Byte)) : (s.writeFields i ws).obs = s.obs := by rw [State.writeFields_frame]
@[simp] theorem State.writeFields_resp (s : State) (i : Nat) (ws : List (Field × Byte)) : (s.writeFields i ws).resp = s.resp := by rw [State.writeFields_frame]
@[simp] theorem State.writeFields_fade (s : State) (i : Nat) (ws : List (Field × Byte)) : (s.writeFields i ws).fade = s.fade := by rw [State.writeFields_frame]
@[simp] theorem State.writeFields_tasks (s : State) (i : Nat) (ws : List (Field × Byte)) : (s.writeFields i ws).tasks = s.tasks := by rw [State.writeFields_frame]
@[simp] theorem State.writeFields_inputs (s : State) (i : Nat) (ws : List (Field × Byte)) : (s.writeFields i ws).inputs = s.inputs := by rw [State.writeFields_frame]

@[simp] theorem State.encodeLed_cfg (s : State) (i : Nat) (h : Half) : (s.encodeLed i h).cfg = s.cfg := by rw [State.encodeLed_frame]
@[simp] theorem State.encodeLed_pix (s : State) (i : Nat) (h : Half) : (s.encodeLed i h).pix = s.pix := by rw [State.encodeLed_frame]
@[simp] theorem State.encodeLed_phase (s : State) (i : Nat) (h : Half) : (s.encodeLed i h).phase = s.phase := by rw [State.encodeLed_frame]
@[simp] theorem State.encodeLed_cursor (s : State) (i : Nat) (h : Half) : (s.encodeLed i h).cursor = s.cursor := by rw [State.encodeLed_frame]
@[simp] theorem State.encodeLed_lastEv (s : State) (i : Nat) (h : Half) : (s.encodeLed i h).lastEv = s.lastEv := by rw [State.encodeLed_frame]
@[simp] theorem State.encodeLed_rcount (s : State) (i : Nat) (h : Half) : (s.encodeLed i h).rcount = s.rcount := by rw [State.encodeLed_frame]
@[simp] theorem State.encodeLed_primed (s : State) (i : Nat) (h : Half) : (s.encodeLed i h).primed = s.primed := by rw [State.encodeLed_frame]
@[simp] theorem State.encodeLed_started (s : State) (i : Nat) (h : Half) : (s.encodeLed i h).started = s.started := by rw [State.encodeLed_frame]
@[simp] theorem State.encodeLed_rd (s : State) (i : Nat) (h : Half) : (s.encodeLed i h).rd = s.rd := by rw [State.encodeLed_frame]
@[simp] theorem State.encodeLed_pending (s : State) (i : Nat) (h : Half) : (s.encodeLed i h).pending = s.pending := by rw [State.encodeLed_frame]
@[simp] theorem State.encodeLed_fEventOverrun (s : State) (i : Nat) (h : Half) : (s.encodeLed i h).fEventOverrun = s.fEventOverrun := by rw [State.encodeLed_frame]
@[simp] theorem State.encodeLed_fHostProtocol (s : State) (i : Nat) (h : Half) : (s.encodeLed i h).fHostProtocol = s.fHostProtocol := by rw [State.encodeLed_frame]
@[simp] theorem State.encodeLed_refused (s : State) (i : Nat) (h : Half) : (s.encodeLed i h).refused = s.refused := by rw [State.encodeLed_frame]
@[simp] theorem State.encodeLed_wire (s : State) (i : Nat) (h : Half) : (s.encodeLed i h).wire = s.wire := by rw [State.encodeLed_frame]
@[simp] theorem State.encodeLed_obs (s : State) (i : Nat) (h : Half) : (s.encodeLed i h).obs = s.obs := by rw [State.encodeLed_frame]
@[simp] theorem State.encodeLed_resp (s : State) (i : Nat) (h : Half) : (s.encodeLed i h).resp = s.resp := by rw [State.encodeLed_frame]
@[simp] theorem State.encodeLed_fade (s : State) (i : Nat) (h : Half) : (s.encodeLed i h).fade = s.fade := by rw [State.encodeLed_frame]
@[simp] theorem State.encodeLed_tasks (s : State) (i : Nat) (h : Half) : (s.encodeLed i h).tasks = s.tasks := by rw [State.encodeLed_frame]
@[simp] theorem State.encodeLed_inputs (s : State) (i : Nat) (h : Half) : (s.encodeLed i h).inputs = s.inputs := by rw [State.encodeLed_frame]

@[simp] theorem State.setPixel_cfg (s : State) (idx : Byte) (p : Pixel) : (s.setPixel idx p).cfg = s.cfg := by rw [State.setPixel_frame]
@[simp] theorem State.setPixel_tb (s : State) (idx : Byte) (p : Pixel) : (s.setPixel idx p).tb = s.tb := by rw [State.setPixel_frame]
@[simp] theorem State.setPixel_phase (s : State) (idx : Byte) (p : Pixel) : (s.setPixel idx p).phase = s.phase := by rw [State.setPixel_frame]
@[simp] theorem State.setPixel_cursor (s : State) (idx : Byte) (p : Pixel) : (s.setPixel idx p).cursor = s.cursor := by rw [State.setPixel_frame]
@[simp] theorem State.setPixel_lastEv (s : State) (idx : Byte) (p : Pixel) : (s.setPixel idx p).lastEv = s.lastEv := by rw [State.setPixel_frame]
@[simp] theorem State.setPixel_rcount (s : State) (idx : Byte) (p : Pixel) : (s.setPixel idx p).rcount = s.rcount := by rw [State.setPixel_frame]
@[simp] theorem State.setPixel_primed (s : State) (idx : Byte) (p : Pixel) : (s.setPixel idx p).primed = s.primed := by rw [State.setPixel_frame]
@[simp] theorem State.setPixel_started (s : State) (idx : Byte) (p : Pixel) : (s.setPixel idx p).started = s.started := by rw [State.setPixel_frame]
@[simp] theorem State.setPixel_rd (s : State) (idx : Byte) (p : Pixel) : (s.setPixel idx p).rd = s.rd := by rw [State.setPixel_frame]
@[simp] theorem State.setPixel_pending (s : State) (idx : Byte) (p : Pixel) : (s.setPixel idx p).pending = s.pending := by rw [State.setPixel_frame]
@[simp] theorem State.setPixel_fEventOverrun (s : State) (idx : Byte) (p : Pixel) : (s.setPixel idx p).fEventOverrun = s.fEventOverrun := by rw [State.setPixel_frame]
@[simp] theorem State.setPixel_fHostProtocol (s : State) (idx : Byte) (p : Pixel) : (s.setPixel idx p).fHostProtocol = s.fHostProtocol := by rw [State.setPixel_frame]
@[simp] theorem State.setPixel_refused (s : State) (idx : Byte) (p : Pixel) : (s.setPixel idx p).refused = s.refused := by rw [State.setPixel_frame]
@[simp] theorem State.setPixel_wire (s : State) (idx : Byte) (p : Pixel) : (s.setPixel idx p).wire = s.wire := by rw [State.setPixel_frame]
@[simp] theorem State.setPixel_obs (s : State) (idx : Byte) (p : Pixel) : (s.setPixel idx p).obs = s.obs := by rw [State.setPixel_frame]
@[simp] theorem State.setPixel_resp (s : State) (idx : Byte) (p : Pixel) : (s.setPixel idx p).resp = s.resp := by rw [State.setPixel_frame]
@[simp] theorem State.setPixel_fade (s : State) (idx : Byte) (p : Pixel) : (s.setPixel idx p).fade = s.fade := by rw [State.setPixel_frame]
@[simp] theorem State.setPixel_tasks (s : State) (idx : Byte) (p : Pixel) : (s.setPixel idx p).tasks = s.tasks := by rw [State.setPixel_frame]
@[simp] theorem State.setPixel_inputs (s : State) (idx : Byte) (p : Pixel) : (s.setPixel idx p).inputs = s.inputs := by rw [State.setPixel_frame]

@[simp] theorem State.setColour_cfg (s : State) (idx : Byte) (c : Colour) : (s.setColour idx c).cfg = s.cfg := by rw [State.setColour_frame]
@[simp] theorem State.setColour_tb (s : State) (idx : Byte) (c : Colour) : (s.setColour idx c).tb = s.tb := by rw [State.setColour_frame]
@[simp] theorem State.setColour_phase (s : State) (idx : Byte) (c : Colour) : (s.setColour idx c).phase = s.phase := by rw [State.setColour_frame]
@[simp] theorem State.setColour_cursor (s : State) (idx : Byte) (c : Colour) : (s.setColour idx c).cursor = s.cursor := by rw [State.setColour_frame]
@[simp] theorem State.setColour_lastEv (s : State) (idx : Byte) (c : Colour) : (s.setColour idx c).lastEv = s.lastEv := by rw [State.setColour_frame]
@[simp] theorem State.setColour_rcount (s : State) (idx : Byte) (c : Colour) : (s.setColour idx c).rcount = s.rcount := by rw [State.setColour_frame]
@[simp] theorem State.setColour_primed (s : State) (idx : Byte) (c : Colour) : (s.setColour idx c).primed = s.primed := by rw [State.setColour_frame]
@[simp] theorem State.setColour_started (s : State) (idx : Byte) (c : Colour) : (s.setColour idx c).started = s.started := by rw [State.setColour_frame]
@[simp] theorem State.setColour_rd (s : State) (idx : Byte) (c : Colour) : (s.setColour idx c).rd = s.rd := by rw [State.setColour_frame]
@[simp] theorem State.setColour_pending (s : State) (idx : Byte) (c : Colour) : (s.setColour idx c).pending = s.pending := by rw [State.setColour_frame]
@[simp] theorem State.setColour_fEventOverrun (s : State) (idx : Byte) (c : Colour) : (s.setColour idx c).fEventOverrun = s.fEventOverrun := by rw [State.setColour_frame]
@[simp] theorem State.setColour_fHostProtocol (s : State) (idx : Byte) (c : Colour) : (s.setColour idx c).fHostProtocol = s.fHostProtocol := by rw [State.setColour_frame]
@[simp] theorem State.setColour_refused (s : State) (idx : Byte) (c : Colour) : (s.setColour idx c).refused = s.refused := by rw [State.setColour_frame]
@[simp] theorem State.setColour_wire (s : State) (idx : Byte) (c : Colour) : (s.setColour idx c).wire = s.wire := by rw [State.setColour_frame]
@[simp] theorem State.setColour_obs (s : State) (idx : Byte) (c : Colour) : (s.setColour idx c).obs = s.obs := by rw [State.setColour_frame]
@[simp] theorem State.setColour_resp (s : State) (idx : Byte) (c : Colour) : (s.setColour idx c).resp = s.resp := by rw [State.setColour_frame]
@[simp] theorem State.setColour_fade (s : State) (idx : Byte) (c : Colour) : (s.setColour idx c).fade = s.fade := by rw [State.setColour_frame]
@[simp] theorem State.setColour_tasks (s : State) (idx : Byte) (c : Colour) : (s.setColour idx c).tasks = s.tasks := by rw [State.setColour_frame]
@[simp] theorem State.setColour_inputs (s : State) (idx : Byte) (c : Colour) : (s.setColour idx c).inputs = s.inputs := by rw [State.setColour_frame]

@[simp] theorem State.setNorm_cfg (s : State) (idx r g b br : Byte) : (s.setNorm idx r g b br).cfg = s.cfg := by rw [State.setNorm_frame]
@[simp] theorem State.setNorm_tb (s : State) (idx r g b br : Byte) : (s.setNorm idx r g b br).tb = s.tb := by rw [State.setNorm_frame]
@[simp] theorem State.setNorm_phase (s : State) (idx r g b br : Byte) : (s.setNorm idx r g b br).phase = s.phase := by rw [State.setNorm_frame]
@[simp] theorem State.setNorm_cursor (s : State) (idx r g b br : Byte) : (s.setNorm idx r g b br).cursor = s.cursor := by rw [State.setNorm_frame]
@[simp] theorem State.setNorm_lastEv (s : State) (idx r g b br : Byte) : (s.setNorm idx r g b br).lastEv = s.lastEv := by rw [State.setNorm_frame]
@[simp] theorem State.setNorm_rcount (s : State) (idx r g b br : Byte) : (s.setNorm idx r g b br).rcount = s.rcount := by rw [State.setNorm_frame]
@[simp] theorem State.setNorm_primed (s : State) (idx r g b br : Byte) : (s.setNorm idx r g b br).primed = s.primed := by rw [State.setNorm_frame]
@[simp] theorem State.setNorm_started (s : State) (idx r g b br : Byte) : (s.setNorm idx r g b br).started = s.started := by rw [State.setNorm_frame]
@[simp] theorem State.setNorm_rd (s : State) (idx r g b br : Byte) : (s.setNorm idx r g b br).rd = s.rd := by rw [State.setNorm_frame]
@[simp] theorem State.setNorm_pending (s : State) (idx r g b br : Byte) : (s.setNorm idx r g b br).pending = s.pending := by rw [State.setNorm_frame]
@[simp] theorem State.setNorm_fEventOverrun (s : State) (idx r g b br : Byte) : (s.setNorm idx r g b br).fEventOverrun = s.fEventOverrun := by rw [State.setNorm_frame]
@[simp] theorem State.setNorm_fHostProtocol (s : State) (idx r g b br : Byte) : (s.setNorm idx r g b br).fHostProtocol = s.fHostProtocol := by rw [State.setNorm_frame]
@[simp] theorem State.setNorm_refused (s : State) (idx r g b br : Byte) : (s.setNorm idx r g b br).refused = s.refused := by rw [State.setNorm_frame]
@[simp] theorem State.setNorm_wire (s : State) (idx r g b br : Byte) : (s.setNorm idx r g b br).wire = s.wire := by rw [State.setNorm_frame]
@[simp] theorem State.setNorm_obs (s : State) (idx r g b br : Byte) : (s.setNorm idx r g b br).obs = s.obs := by rw [State.setNorm_frame]
@[simp] theorem State.setNorm_resp (s : State) (idx r g b br : Byte) : (s.setNorm idx r g b br).resp = s.resp := by rw [State.setNorm_frame]
@[simp] theorem State.setNorm_fade (s : State) (idx r g b br : Byte) : (s.setNorm idx r g b br).fade = s.fade := by rw [State.setNorm_frame]
@[simp] theorem State.setNorm_tasks (s : State) (idx r g b br : Byte) : (s.setNorm idx r g b br).tasks = s.tasks := by rw [State.setNorm_frame]
@[simp] theorem State.setNorm_inputs (s : State) (idx r g b br : Byte) : (s.setNorm idx r g b br).inputs = s.inputs := by rw [State.setNorm_frame]

@[simp] theorem State.setBrightness_cfg (s : State) (idx br : Byte) : (s.setBrightness idx br).cfg = s.cfg := by rw [State.setBrightness_frame]
@[simp] theorem State.setBrightness_tb (s : State) (idx br : Byte) : (s.setBrightness idx br).tb = s.tb := by rw [State.setBrightness_frame]
@[simp] theorem State.setBrightness_phase (s : State) (idx br : Byte) : (s.setBrightness idx br).phase = s.phase := by rw [State.setBrightness_frame]
@[simp] theorem State.setBrightness_cursor (s : State) (idx br : Byte) : (s.setBrightness idx br).cursor = s.cursor := by rw [State.setBrightness_frame]
@[simp] theorem State.setBrightness_lastEv (s : State) (idx br : Byte) : (s.setBrightness idx br).lastEv = s.lastEv := by rw [State.setBrightness_frame]
@[simp] theorem State.setBrightness_rcount (s : State) (idx br : Byte) : (s.setBrightness idx br).rcount = s.rcount := by rw [State.setBrightness_frame]
@[simp] theorem State.setBrightness_primed (s : State) (idx br : Byte) : (s.setBrightness idx br).primed = s.primed := by rw [State.setBrightness_frame]
@[simp] theorem State.setBrightness_started (s : State) (idx br : Byte) : (s.setBrightness idx br).started = s.started := by rw [State.setBrightness_frame]
@[simp] theorem State.setBrightness_rd (s : State) (idx br : Byte) : (s.setBrightness idx br).rd = s.rd := by rw [State.setBrightness_frame]
@[simp] theorem State.setBrightness_pending (s : State) (idx br : Byte) : (s.setBrightness idx br).pending = s.pending := by rw [State.setBrightness_frame]
@[simp] theorem State.setBrightness_fEventOverrun (s : State) (idx br : Byte) : (s.setBrightness idx br).fEventOverrun = s.fEventOverrun := by rw [State.setBrightness_frame]
@[simp] theorem State.setBrightness_fHostProtocol (s : State) (idx br : Byte) : (s.setBrightness idx br).fHostProtocol = s.fHostProtocol := by rw [State.setBrightness_frame]
@[simp] theorem State.setBrightness_refused (s : State) (idx br : Byte) : (s.setBrightness idx br).refused = s.refused := by rw [State.setBrightness_frame]
@[simp] theorem State.setBrightness_wire (s : State) (idx br : Byte) : (s.setBrightness idx br).wire = s.wire := by rw [State.setBrightness_frame]
@[simp] theorem State.setBrightness_obs (s : State) (idx br : Byte) : (s.setBrightness idx br).obs = s.obs := by rw [State.setBrightness_frame]
@[simp] theorem State.setBrightness_resp (s : State) (idx br : Byte) : (s.setBrightness idx br).resp = s.resp := by rw [State.setBrightness_frame]
@[simp] theorem State.setBrightness_fade (s : State) (idx br : Byte) : (s.setBrightness idx br).fade = s.fade := by rw [State.setBrightness_frame]
@[simp] theorem State.setBrightness_tasks (s : State) (idx br : Byte) : (s.setBrightness idx br).tasks = s.tasks := by rw [State.setBrightness_frame]
@[simp] theorem State.setBrightness_inputs (s : State) (idx br : Byte) : (s.setBrightness idx br).inputs = s.inputs := by rw [State.setBrightness_frame]

@[simp] theorem State.ledEvent_cfg (s : State) (h : Half) : (s.ledEvent h).cfg = s.cfg := by rw [State.ledEvent_frame]
@[simp] theorem State.ledEvent_pix (s : State) (h : Half) : (s.ledEvent h).pix = s.pix := by rw [State.ledEvent_frame]
@[simp] theorem State.ledEvent_lastEv (s : State) (h : Half) : (s.ledEvent h).lastEv = s.lastEv := by rw [State.ledEvent_frame]
@[simp] theorem State.ledEvent_primed (s : State) (h : Half) : (s.ledEvent h).primed = s.primed := by rw [State.ledEvent_frame]
@[simp] theorem State.ledEvent_started (s : State) (h : Half) : (s.ledEvent h).started = s.started := by rw [State.ledEvent_frame]
@[simp] theorem State.ledEvent_rd (s : State) (h : Half) : (s.ledEvent h).rd = s.rd := by rw [State.ledEvent_frame]
@[simp] theorem State.ledEvent_pending (s : State) (h : Half) : (s.ledEvent h).pending = s.pending := by rw [State.ledEvent_frame]
@[simp] theorem State.ledEvent_fEventOverrun (s : State) (h : Half) : (s.ledEvent h).fEventOverrun = s.fEventOverrun := by rw [State.ledEvent_frame]
@[simp] theorem State.ledEvent_fHostProtocol (s : State) (h : Half) : (s.ledEvent h).fHostProtocol = s.fHostProtocol := by rw [State.ledEvent_frame]
@[simp] theorem State.ledEvent_refused (s : State) (h : Half) : (s.ledEvent h).refused = s.refused := by rw [State.ledEvent_frame]
@[simp] theorem State.ledEvent_wire (s : State) (h : Half) : (s.ledEvent h).wire = s.wire := by rw [State.ledEvent_frame]
@[simp] theorem State.ledEvent_obs (s : State) (h : Half) : (s.ledEvent h).obs = s.obs := by rw [State.ledEvent_frame]
@[simp] theorem State.ledEvent_resp (s : State) (h : Half) : (s.ledEvent h).resp = s.resp := by rw [State.ledEvent_frame]
@[simp] theorem State.ledEvent_fade (s : State) (h : Half) : (s.ledEvent h).fade = s.fade := by rw [State.ledEvent_frame]
@[simp] theorem State.ledEvent_tasks (s : State) (h : Half) : (s.ledEvent h).tasks = s.tasks := by rw [State.ledEvent_frame]
@[simp] theorem State.ledEvent_inputs (s : State) (h : Half) : (s.ledEvent h).inputs = s.inputs := by rw [State.ledEvent_frame]

@[simp] theorem State.resetEvent_cfg (s : State) (h : Half) : (s.resetEvent h).cfg = s.cfg := by rw [State.resetEvent_frame]
@[simp] theorem State.resetEvent_pix (s : State) (h : Half) : (s.resetEvent h).pix = s.pix := by rw [State.resetEvent_frame]
@[simp] theorem State.resetEvent_lastEv (s : State) (h : Half) : (s.resetEvent h).lastEv = s.lastEv := by rw [State.resetEvent_frame]
@[simp] theorem State.resetEvent_primed (s : State) (h : Half) : (s.resetEvent h).primed = s.primed := by rw [State.resetEvent_frame]
@[simp] theorem State.resetEvent_started (s : State) (h : Half) : (s.resetEvent h).started = s.started := by rw [State.resetEvent_frame]
@[simp] theorem State.resetEvent_rd (s : State) (h : Half) : (s.resetEvent h).rd = s.rd := by rw [State.resetEvent_frame]
@[simp] theorem State.resetEvent_pending (s : State) (h : Half) : (s.resetEvent h).pending = s.pending := by rw [State.resetEvent_frame]
@[simp] theorem State.resetEvent_fEventOverrun (s : State) (h : Half) : (s.resetEvent h).fEventOverrun = s.fEventOverrun := by rw [State.resetEvent_frame]
@[simp] theorem State.resetEvent_fHostProtocol (s : State) (h : Half) : (s.resetEvent h).fHostProtocol = s.fHostProtocol := by rw [State.resetEvent_frame]
@[simp] theorem State.resetEvent_refused (s : State) (h : Half) : (s.resetEvent h).refused = s.refused := by rw [State.resetEvent_frame]
@[simp] theorem State.resetEvent_wire (s : State) (h : Half) : (s.resetEvent h).wire = s.wire := by rw [State.resetEvent_frame]
@[simp] theorem State.resetEvent_obs (s : State) (h : Half) : (s.resetEvent h).obs = s.obs := by rw [State.resetEvent_frame]
@[simp] theorem State.resetEvent_resp (s : State) (h : Half) : (s.resetEvent h).resp = s.resp := by rw [State.resetEvent_frame]
@[simp] theorem State.resetEvent_fade (s : State) (h : Half) : (s.resetEvent h).fade = s.fade := by rw [State.resetEvent_frame]
@[simp] theorem State.resetEvent_tasks (s : State) (h : Half) : (s.resetEvent h).tasks = s.tasks := by rw [State.resetEvent_frame]
@[simp] theorem State.resetEvent_inputs (s : State) (h : Half) : (s.resetEvent h).inputs = s.inputs := by rw [State.resetEvent_frame]

@[simp] theorem State.handle_cfg (s : State) (e : Event) : (s.handle e).cfg = s.cfg := by rw [State.handle_frame]
@[simp] theorem State.handle_pix (s : State) (e : Event) : (s.handle e).pix = s.pix := by rw [State.handle_frame]
@[simp] theorem State.handle_primed (s : State) (e : Event) : (s.handle e).primed = s.primed := by rw [State.handle_frame]
@[simp] theorem State.handle_started (s : State) (e : Event) : (s.handle e).started = s.started := by rw [State.handle_frame]
@[simp] theorem State.handle_rd (s : State) (e : Event) : (s.handle e).rd = s.rd := by rw [State.handle_frame]
@[simp] theorem State.handle_pending (s : State) (e : Event) : (s.handle e).pending = s.pending := by rw [State.handle_frame]
@[simp] theorem State.handle_fEventOverrun (s : State) (e : Event) : (s.handle e).fEventOverrun = s.fEventOverrun := by rw [State.handle_frame]
@[simp] theorem State.handle_fHostProtocol (s : State) (e : Event) : (s.handle e).fHostProtocol = s.fHostProtocol := by rw [State.handle_frame]
@[simp] theorem State.handle_refused (s : State) (e : Event) : (s.handle e).refused = s.refused := by rw [State.handle_frame]
@[simp] theorem State.handle_wire (s : State) (e : Event) : (s.handle e).wire = s.wire := by rw [State.handle_frame]
@[simp] theorem State.handle_resp (s : State) (e : Event) : (s.handle e).resp = s.resp := by rw [State.handle_frame]
@[simp] theorem State.handle_fade (s : State) (e : Event) : (s.handle e).fade = s.fade := by rw [State.handle_frame]
@[simp] theorem State.handle_tasks (s : State) (e : Event) : (s.handle e).tasks = s.tasks := by rw [State.handle_frame]
@[simp] theorem State.handle_inputs (s : State) (e : Event) : (s.handle e).inputs = s.inputs := by rw [State.handle_frame]

@[simp] theorem State.primeBuffers_cfg (s : State) : (s.primeBuffers).cfg = s.cfg := by rw [State.primeBuffers_eq]
@[simp] theorem State.primeBuffers_pix (s : State) : (s.primeBuffers).pix = s.pix := by rw [State.primeBuffers_eq]
@[simp] theorem State.primeBuffers_started (s : State) : (s.primeBuffers).started = s.started := by rw [State.primeBuffers_eq]
@[simp] theorem State.primeBuffers_rd (s : State) : (s.primeBuffers).rd = s.rd := by rw [State.primeBuffers_eq]
@[simp] theorem State.primeBuffers_pending (s : State) : (s.primeBuffers).pending = s.pending := by rw [State.primeBuffers_eq]
@[simp] theorem State.primeBuffers_fEventOverrun (s : State) : (s.primeBuffers).fEventOverrun = s.fEventOverrun := by rw [State.primeBuffers_eq]
@[simp] theorem State.primeBuffers_fHostProtocol (s : State) : (s.primeBuffers).fHostProtocol = s.fHostProtocol := by rw [State.primeBuffers_eq]
@[simp] theorem State.primeBuffers_refused (s : State) : (s.primeBuffers).refused = s.refused := by rw [State.primeBuffers_eq]
@[simp] theorem State.primeBuffers_wire (s : State) : (s.primeBuffers).wire = s.wire := by rw [State.primeBuffers_eq]
@[simp] theorem State.primeBuffers_obs (s : State) : (s.primeBuffers).obs = s.obs := by rw [State.primeBuffers_eq]
@[simp] theorem State.primeBuffers_resp (s : State) : (s.primeBuffers).resp = s.resp := by rw [State.primeBuffers_eq]
@[simp] theorem State.primeBuffers_fade (s : State) : (s.primeBuffers).fade = s.fade := by rw [State.primeBuffers_eq]
@[simp] theorem State.primeBuffers_tasks (s : State) : (s.primeBuffers).tasks = s.tasks := by rw [State.primeBuffers_eq]
@[simp] theorem State.primeBuffers_inputs (s : State) : (s.primeBuffers).inputs = s.inputs := by rw [State.primeBuffers_eq]

@[simp] theorem State.consume_cfg (s : State) : (s.consume).cfg = s.cfg := by rw [State.consume_eq]
@[simp] theorem State.consume_pix (s : State) : (s.consume).pix = s.pix := by rw [State.consume_eq]
@[simp] theorem State.consume_tb (s : State) : (s.consume).tb = s.tb := by rw [State.consume_eq]
@[simp] theorem State.consume_phase (s : State) : (s.consume).phase = s.phase := by rw [State.consume_eq]
@[simp] theorem State.consume_cursor (s : State) : (s.consume).cursor = s.cursor := by rw [State.consume_eq]
@[simp] theorem State.consume_lastEv (s : State) : (s.consume).lastEv = s.lastEv := by rw [State.consume_eq]
@[simp] theorem State.consume_rcount (s : State) : (s.consume).rcount = s.rcount := by rw [State.consume_eq]
@[simp] theorem State.consume_primed (s : State) : (s.consume).primed = s.primed := by rw [State.consume_eq]
@[simp] theorem State.consume_started (s : State) : (s.consume).started = s.started := by rw [State.consume_eq]
@[simp] theorem State.consume_fHostProtocol (s : State) : (s.consume).fHostProtocol = s.fHostProtocol := by rw [State.consume_eq]
@[simp] theorem State.consume_refused (s : State) : (s.consume).refused = s.refused := by rw [State.consume_eq]
@[simp] theorem State.consume_obs (s : State) : (s.consume).obs = s.obs := by rw [State.consume_eq]
@[simp] theorem State.consume_resp (s : State) : (s.consume).resp = s.resp := by rw [State.consume_eq]
@[simp] theorem State.consume_fade (s : State) : (s.consume).fade = s.fade := by rw [State.consume_eq]
@[simp] theorem State.consume_tasks (s : State) : (s.consume).tasks = s.tasks := by rw [State.consume_eq]
@[simp] theorem State.consume_inputs (s : State) : (s.consume).inputs = s.inputs := by rw [State.consume_eq]

end Sys2Proof.Machine
end

