-- ==== Sys2Proof/Laws/Memory.lean ====
section
/-! SUPPORT. The storage keeps its form (Safety.lean, `Memory.wf`): one lemma per operation over storage, and reset. -/

namespace Sys2Proof.Machine

theorem Memory.wf_iff (s : State) :
    Memory.wf s = true ↔
      s.pix.length = s.cfg.n ∧ (∀ p ∈ s.pix, p.br.toNat ≤ maxBrightness) ∧ s.fade.length = s.cfg.n := by
  simp [Memory.wf, and_assoc]

/-- The form depends only on `PIX`, the fade state and the configuration. -/
theorem Memory.wf_congr {s t : State} (hc : t.cfg = s.cfg) (hp : t.pix = s.pix) (hf : t.fade = s.fade) :
    Memory.wf t = Memory.wf s := by
  simp [Memory.wf, hc, hp, hf]

/-- A record read from well-formed storage has a brightness in range, also at an index with no record. -/
theorem Memory.wf_readPixel {s : State} (h : Memory.wf s = true) (i : Nat) :
    (s.readPixel i).br.toNat ≤ maxBrightness := by
  obtain ⟨-, hp, -⟩ := (Memory.wf_iff s).1 h
  unfold State.readPixel List.getD
  cases hg : s.pix[i]? with
  | none => simp [Pixel.zero]
  | some p => exact hp p (List.mem_of_getElem? hg)

/-- A field write keeps the form, if what it writes to a brightness field is in range. -/
theorem Memory.wf_writeField {s : State} (h : Memory.wf s = true) (i : Nat) (f : Field) (v : Byte)
    (hv : f = .br → v.toNat ≤ maxBrightness) : Memory.wf (s.writeField i f v) = true := by
  obtain ⟨hl, hp, hf⟩ := (Memory.wf_iff s).1 h
  refine (Memory.wf_iff _).2 ⟨by simpa using hl, ?_, by simpa using hf⟩
  intro p hmem
  rcases List.mem_or_eq_of_mem_set (by simpa using hmem) with hm | rfl
  · exact hp p hm
  · have hb := Memory.wf_readPixel h i
    cases f <;> simp_all [Pixel.put]

theorem Memory.wf_writeFields {s : State} (h : Memory.wf s = true) (i : Nat) (ws : List (Field × Byte))
    (hv : ∀ w ∈ ws, w.1 = .br → w.2.toNat ≤ maxBrightness) : Memory.wf (s.writeFields i ws) = true := by
  induction ws generalizing s with
  | nil => exact h
  | cons w ws ih =>
    have h1 := Memory.wf_writeField h i w.1 w.2 (hv w (by simp))
    exact ih h1 (fun w' hw' => hv w' (by simp [hw']))

theorem Memory.wf_writeHalf (s : State) (h : Half) (c : Nat → Byte) : Memory.wf (s.writeHalf h c) = Memory.wf s :=
  Memory.wf_congr rfl rfl rfl

theorem Memory.wf_writeFade {s : State} (h : Memory.wf s = true) (i : Nat) (r : FadeRec) :
    Memory.wf (s.writeFade i r) = true := by
  obtain ⟨hl, hp, hf⟩ := (Memory.wf_iff s).1 h
  exact (Memory.wf_iff _).2 ⟨hl, hp, by simpa using hf⟩

/-- An accepted brightness is in range. -/
theorem pixelAccepted_brightness {s : State} {idx br : Byte} (h : s.pixelAccepted idx br = true) :
    br.toNat ≤ maxBrightness := by
  simp only [State.pixelAccepted, Bool.and_eq_true, brightnessOk, decide_eq_true_eq] at h
  exact h.2

theorem Memory.wf_setPixel {s : State} (h : Memory.wf s = true) (idx : Byte) (p : Pixel) :
    Memory.wf (s.setPixel idx p) = true := by
  unfold State.setPixel
  split
  · rename_i ha
    apply Memory.wf_writeFields h
    have hb : p.br.toNat ≤ maxBrightness := pixelAccepted_brightness ha
    intro w hw hbr
    simp only [pixelWrites, List.mem_cons, List.not_mem_nil, or_false] at hw
    rcases hw with rfl | rfl | rfl | rfl <;> simp_all
  · exact h

theorem Memory.wf_colourWrites {s : State} (h : Memory.wf s = true) (i : Nat) (c : Colour) :
    Memory.wf (s.writeFields i (colourWrites c)) = true := by
  apply Memory.wf_writeFields h
  intro w hw hbr
  simp only [colourWrites, List.mem_cons, List.not_mem_nil, or_false] at hw
  rcases hw with rfl | rfl | rfl <;> cases hbr

theorem Memory.wf_setColour {s : State} (h : Memory.wf s = true) (idx : Byte) (c : Colour) :
    Memory.wf (s.setColour idx c) = true := by
  unfold State.setColour
  split
  · exact Memory.wf_colourWrites h idx.toNat c
  · exact h

theorem Memory.wf_setNorm {s : State} (h : Memory.wf s = true) (idx r g b br : Byte) :
    Memory.wf (s.setNorm idx r g b br) = true := by
  unfold State.setNorm
  split
  · exact Memory.wf_colourWrites h idx.toNat _
  · exact h

theorem Memory.wf_setBrightness {s : State} (h : Memory.wf s = true) (idx br : Byte) :
    Memory.wf (s.setBrightness idx br) = true := by
  unfold State.setBrightness
  split
  · rename_i ha
    have hb : br.toNat ≤ maxBrightness := pixelAccepted_brightness ha
    exact Memory.wf_writeField h _ _ _ (fun _ => hb)
  · exact h

/-- Reset has the form, for every configuration and every admitted draw. -/
theorem Memory.wf_resetWith (cfg : Config) (pix : List Pixel) (tb : Vector Byte 48) (h : drawOk cfg pix = true) :
    Memory.wf (State.resetWith cfg pix tb) = true := by
  simp only [drawOk, Bool.and_eq_true] at h
  simpa [Memory.wf, State.resetWith] using h

theorem Memory.wf_reset : Memory.wf State.reset = true := by decide

end Sys2Proof.Machine
end

