-- ==== Sys2Proof/Laws/Operands.lean ====
section
/-! SUPPORT. The arithmetic of operands within its ranges: effective values, the rounding and the channels of `SETNORM`, the
counters, the rules of a valid configuration. -/

namespace Sys2Proof

theorem Config.valid_iff (c : Config) :
    c.valid = true ↔ 3 ≤ c.n ∧ c.n ≤ 255 ∧ 2 ≤ c.t ∧ c.t ≤ 255 ∧ 0 < c.code0 ∧ c.code0 < c.code1
      ∧ c.code1 ≤ min c.period 255 ∧ c.maxB = 100 := by
  simp [Config.valid, and_assoc]

end Sys2Proof

namespace Sys2Proof.Machine

/-- With a brightness in range the effective value fits its byte (41_waveform_encoder.md R171). -/
theorem effective_toNat (c : Byte) {br : Byte} (h : br.toNat ≤ maxBrightness) :
    (effective c br).toNat = c.toNat * br.toNat / 100 := by
  simp only [effective, BitVec.toNat_ofNat, maxBrightness] at *
  apply Nat.mod_eq_of_lt
  have := c.isLt
  have h2 : c.toNat * br.toNat ≤ 255 * 100 := Nat.mul_le_mul (by omega) h
  omega

/-- Bit `23 - m` of `W` is bit `7 - m mod 8` of the effective value of the channel of place `m`. -/
theorem Pixel.ledWord_getLsbD (p : Pixel) {m : Nat} (hm : m < 24) :
    p.ledWord.getLsbD (23 - m) =
      (effective (if m < 8 then p.r else if m < 16 then p.g else p.b) p.br).getLsbD (7 - m % 8) := by
  simp only [Pixel.ledWord, BitVec.getLsbD_append]
  by_cases h1 : m < 8
  · rw [if_neg (by omega), if_neg (by omega), if_pos h1]
    congr 1; omega
  · by_cases h2 : m < 16
    · rw [if_neg (by omega), if_pos (by omega), if_neg h1, if_pos h2]
      congr 1; omega
    · rw [if_pos (by omega), if_neg h1, if_neg h2]
      congr 1; omega

/-! ### Rounding -/

theorem roundHalfUp_bounds (num : Nat) {den : Nat} (h : 0 < den) :
    2 * den * roundHalfUp num den ≤ 2 * num + den ∧ 2 * num + den < 2 * den * (roundHalfUp num den + 1) :=
  ⟨Nat.mul_div_le _ _, Nat.lt_mul_div_succ _ (by omega)⟩

/-- A share of `t` is at most `t`. -/
theorem roundHalfUp_le {c m : Nat} (t : Nat) (hm : 0 < m) (hc : c ≤ m) : roundHalfUp (c * t) m ≤ t := by
  have h : 2 * (c * t) + m < 2 * m * (t + 1) := by
    have := Nat.mul_le_mul_right t hc
    nlinarith
  exact Nat.lt_succ_iff.1 ((Nat.div_lt_iff_lt_mul (by omega)).2 (by simp only [Nat.succ_eq_add_one]; nlinarith))

theorem roundHalfUp_self (t : Nat) {m : Nat} (hm : 0 < m) : roundHalfUp (m * t) m = t := by
  unfold roundHalfUp
  rw [show 2 * (m * t) + m = m + 2 * m * t by ring, Nat.add_mul_div_left _ _ (by omega)]
  simp; omega

theorem normTarget_le {br : Byte} (h : br.toNat ≤ maxBrightness) : normTarget br ≤ 255 := by
  unfold normTarget roundHalfUp
  simp only [maxBrightness] at h
  omega

/-- No division by zero can occur in `SETNORM` (40_pixel_store.md R145). -/
theorem normInput_largest_pos (r g b : Byte) : 0 < (normInput r g b).largest := by
  unfold normInput
  split
  · decide
  · rename_i h
    simp only [Colour.largest]
    by_contra hc
    exact h ⟨BitVec.eq_of_toNat_eq (show r.toNat = 0 by omega), BitVec.eq_of_toNat_eq (show g.toNat = 0 by omega),
      BitVec.eq_of_toNat_eq (show b.toNat = 0 by omega)⟩

theorem normChannel_toNat {c : Byte} {t m : Nat} (hm : 0 < m) (hc : c.toNat ≤ m) (ht : t ≤ 255) :
    (normChannel c t m).toNat = roundHalfUp (c.toNat * t) m := by
  have := roundHalfUp_le t hm hc
  simp only [normChannel, BitVec.toNat_ofNat]
  exact Nat.mod_eq_of_lt (by omega)

/-! ### Counters -/

theorem succ_toNat {b : Byte} (h : b.toNat < 255) : (b + 1).toNat = b.toNat + 1 := by
  simp [BitVec.toNat_add]; omega

theorem pred_toNat {b : Byte} (h : b ≠ 0) : (b - 1).toNat + 1 = b.toNat := by
  have h0 : b.toNat ≠ 0 := fun h0 => h (BitVec.eq_of_toNat_eq (by simpa using h0))
  have := b.isLt
  rw [BitVec.toNat_sub]; simp; omega

theorem rd_succ_val (r : Fin 48) : (r + 1).val = (r.val + 1) % 48 := by rw [Fin.val_add]; rfl

theorem ledIndex_toNat {i : Nat} (h : i ≤ 255) : (ledIndex i).toNat = i := by
  simp [ledIndex]; omega

/-- The half an event selects, by byte. -/
theorem halfOf_eq_vacated (e : Event) (k : Nat) :
    halfOf k = e.vacated ↔ (e = .half ∧ k < 24) ∨ (e = .full ∧ 24 ≤ k) := by
  unfold halfOf
  cases e <;> by_cases h : k < 24 <;> simp [h, Event.vacated]
  omega

end Sys2Proof.Machine
end

