-- ==== Sys2Proof/Laws/Step.lean ====
section
/-! SUPPORT. What a step can do, said once: every move answers a next state, and a property that each primitive change of
state keeps is kept by every step. -/

namespace Sys2Proof.Machine

/-! ### Every move answers a next state -/

theorem exec_next (i : Instr) (s : State) : ∃ t, exec i s = .next t := by
  cases i with
  | prime => simp only [exec, execPrime]; split <;> exact ⟨_, rfl⟩
  | start => simp only [exec, execStart]; split <;> exact ⟨_, rfl⟩
  | _ => exact ⟨_, rfl⟩

theorem State.beginCommand_next (s : State) (h : Nat) (i : Instr) : ∃ t, s.beginCommand h i = .next t := by
  cases i with
  | setbrt idx br => simp only [State.beginCommand]; exact exec_next _ s
  | prime => simp only [State.beginCommand]; exact exec_next _ s
  | start => simp only [State.beginCommand]; exact exec_next _ s
  | halfDrained => simp only [State.beginCommand]; exact exec_next _ s
  | fullyDrained => simp only [State.beginCommand]; exact exec_next _ s
  | _ => exact ⟨_, rfl⟩

theorem State.beginAction_next (s : State) (h : Nat) (a : HostAction) : ∃ t, s.beginAction h a = .next t := by
  cases a with
  | command w =>
    simp only [State.beginAction]
    split
    · exact s.beginCommand_next h _
    · exact ⟨_, rfl⟩
  | _ => exact ⟨_, rfl⟩

theorem State.runAction_next (s : State) (a : HostAction) : ∃ t, s.runAction a = .next t := by
  cases a with
  | command w =>
    simp only [State.runAction, State.runCommand]
    split
    · exact exec_next _ s
    · exact ⟨_, rfl⟩
  | _ => exact ⟨_, rfl⟩

theorem Event.exec_instr (e : Event) (s : State) : exec e.instr s = .next (s.handle e) := by
  cases e <;> rfl

/-- The sequencer's step, where it is enabled and where it is not. -/
theorem State.sequencerStep_cases (s : State) :
    (∃ e, s.cfg.eventSource = .consumer ∧ s.pending = some e ∧ s.sequencerStep = .next (s.takePending.handle e))
      ∨ s.sequencerStep = .next s := by
  unfold State.sequencerStep
  cases hc : s.cfg.eventSource <;> cases hp : s.pending <;> simp [Event.exec_instr]

theorem State.injectStep_cases (s : State) (e : Event) :
    (s.cfg.eventSource = .external ∧ s.injectStep e = .next (s.handle e)) ∨ s.injectStep e = .next s := by
  unfold State.injectStep
  cases hc : s.cfg.eventSource <;> simp [Event.exec_instr]

theorem State.takeTurn_next (s : State) (m : Turn) : ∃ t, s.takeTurn m = .next t := by
  cases m with
  | whole h a =>
    simp only [State.takeTurn]
    split
    · exact ⟨_, rfl⟩
    · exact s.runAction_next a
  | split h a =>
    simp only [State.takeTurn]
    split
    · exact ⟨_, rfl⟩
    · exact s.beginAction_next h a
  | advance h k => exact ⟨_, rfl⟩
  | sequencer => rcases s.sequencerStep_cases with ⟨e, -, -, h⟩ | h <;> exact ⟨_, h⟩
  | consumer => exact ⟨_, rfl⟩
  | inject e => rcases s.injectStep_cases e with ⟨-, h⟩ | h <;> exact ⟨_, h⟩

/-! ### From a step to its move -/

theorem step_of_valid {s : State} (h : s.cfg.valid = true) : step s = s.nextMove.2.takeTurn s.nextMove.1 := by
  simp [step, h]

/-- A step that answers a next state is a move of an admitted configuration. -/
theorem step_cases {s t : State} (h : step s = .next t) :
    s.cfg.valid = true ∧ s.nextMove.2.takeTurn s.nextMove.1 = .next t := by
  unfold step at h
  split at h
  · exact ⟨‹_›, h⟩
  · cases h

/-- Choosing a move changes the moves in store and nothing else. -/
theorem State.nextMove_frame (s : State) : s.nextMove.2 = { s with inputs := s.nextMove.2.inputs } := by
  unfold State.nextMove
  cases s.inputs <;> rfl

/-! ### A property that each primitive change keeps is kept by every step -/

/-- The primitive changes of a host: pixel fields with an accepted brightness, fade records, responses, sequences in
progress, and the two commands of the start protocol. -/
structure HostKeeps (P : State → Prop) : Prop where
  refuse : ∀ s : State, P s → P s.refuse
  respond : ∀ (s : State) w, P s → P (s.respond w)
  setPixel : ∀ (s : State) idx p, P s → P (s.setPixel idx p)
  setColour : ∀ (s : State) idx c, P s → P (s.setColour idx c)
  setNorm : ∀ (s : State) idx r g b br, P s → P (s.setNorm idx r g b br)
  setBrightness : ∀ (s : State) idx br, P s → P (s.setBrightness idx br)
  writeFade : ∀ (s : State) i r, P s → P (s.writeFade i r)
  putTask : ∀ (s : State) t, t.todo.all Access.ok = true → P s → P (s.putTask t)
  hostFault : ∀ s : State, P s → P (s.raiseFault .hostProtocol)
  prime : ∀ s : State, s.started = false → P s → P s.primeBuffers
  start : ∀ s : State, s.started = false → s.primed = true → P s → P { s with started := true, rd := 0 }
  advance : ∀ (s : State) h k, P s → P (s.advance h k)

/-- A word at the command port never is a drain event (30_encoding.md R111). -/
theorem decodeCommand_not_event {w : CommandWord} {i : Instr} (h : decodeCommand w = .ok i) :
    i ≠ .halfDrained ∧ i ≠ .fullyDrained := by
  unfold decodeCommand at h
  repeat' split at h
  all_goals (cases h; try exact ⟨by simp, by simp⟩)

theorem HostKeeps.exec {P : State → Prop} (k : HostKeeps P) {w : CommandWord} {i : Instr} {s t : State}
    (hd : decodeCommand w = .ok i) (he : exec i s = .next t) (hp : P s) : P t := by
  obtain ⟨h1, h2⟩ := decodeCommand_not_event hd
  cases i with
  | setpix idx r g b br => cases he; exact k.setPixel _ _ _ hp
  | setcol idx r g b => cases he; exact k.setColour _ _ _ hp
  | setbrt idx br => cases he; exact k.setBrightness _ _ _ hp
  | setnorm idx r g b br => cases he; exact k.setNorm _ _ _ _ _ _ hp
  | getpix idx => cases he; exact k.respond _ _ hp
  | prime =>
    simp only [Sys2Proof.Machine.exec, execPrime] at he
    split at he <;> cases he
    · exact k.hostFault _ hp
    · rename_i hns; exact k.prime _ (by simpa using hns) hp
  | start =>
    simp only [Sys2Proof.Machine.exec, execStart] at he
    split at he <;> cases he
    · exact k.hostFault _ hp
    · rename_i h
      simp only [Bool.or_eq_true, Bool.not_eq_true', not_or, Bool.not_eq_true, Bool.not_eq_false] at h
      exact k.start _ h.1 h.2 hp
  | halfDrained => exact absurd rfl h1
  | fullyDrained => exact absurd rfl h2

/-- A write sequence whose brightness write, if any, is accepted keeps R31. -/
theorem pixelWrites_ok {p : Pixel} (h : brightnessOk p.br = true) (hst led : Nat) (a : After) :
    (writeTask hst led (pixelWrites p) a).todo.all Access.ok = true := by
  simp [writeTask, pixelWrites, Access.ok, h]

theorem colourWrites_ok (c : Colour) (hst led : Nat) (a : After) :
    (writeTask hst led (colourWrites c) a).todo.all Access.ok = true := by
  simp [writeTask, colourWrites, Access.ok]

theorem normTask_ok (hst led : Nat) (r g b br : Byte) (cfg : Config) :
    (normTask hst led r g b br cfg).todo.all Access.ok = true := by
  unfold normTask
  dsimp only
  split <;> simp [writeTask, colourWrites, Access.ok]

theorem readTask_ok (fs : List Field) (hst led : Nat) (a : After) :
    (readTask hst led fs a).todo.all Access.ok = true := by
  simp [readTask, Access.ok]

theorem HostKeeps.beginCommand {P : State → Prop} (k : HostKeeps P) {w : CommandWord} {i : Instr} {s t : State} {h : Nat}
    (hd : decodeCommand w = .ok i) (he : s.beginCommand h i = .next t) (hp : P s) : P t := by
  cases i with
  | setpix idx r g b br =>
    simp only [State.beginCommand] at he
    cases he
    split
    · rename_i ha
      exact k.putTask _ _ (pixelWrites_ok (by simpa [brightnessOk] using pixelAccepted_brightness ha) _ _ _) hp
    · exact hp
  | setcol idx r g b =>
    simp only [State.beginCommand] at he
    cases he
    split
    · exact k.putTask _ _ (colourWrites_ok _ _ _ _) hp
    · exact hp
  | setnorm idx r g b br =>
    simp only [State.beginCommand] at he
    cases he
    split
    · exact k.putTask _ _ (colourWrites_ok _ _ _ _) hp
    · exact hp
  | getpix idx => cases he; exact k.putTask _ _ (readTask_ok _ _ _ _) hp
  | setbrt idx br => simp only [State.beginCommand] at he; exact k.exec hd he hp
  | prime => simp only [State.beginCommand] at he; exact k.exec hd he hp
  | start => simp only [State.beginCommand] at he; exact k.exec hd he hp
  | halfDrained => simp only [State.beginCommand] at he; exact k.exec hd he hp
  | fullyDrained => simp only [State.beginCommand] at he; exact k.exec hd he hp

theorem hostAccepted_brightness {s : State} {i : Nat} {br : Byte} (h : s.hostAccepted i br = true) :
    brightnessOk br = true := by
  simp only [State.hostAccepted, Bool.and_eq_true] at h
  exact h.2

theorem HostKeeps.beginAction {P : State → Prop} (k : HostKeeps P) {a : HostAction} {s t : State} {h : Nat}
    (he : s.beginAction h a = .next t) (hp : P s) : P t := by
  cases a with
  | command w =>
    simp only [State.beginAction] at he
    split at he
    · exact k.beginCommand ‹_› he hp
    · cases he; exact k.refuse _ hp
  | decay i now =>
    simp only [State.beginAction] at he
    cases he
    split
    · exact hp
    · exact k.putTask _ _ (readTask_ok _ _ _ _) hp
  | fade i now =>
    simp only [State.beginAction] at he
    cases he
    split
    · exact hp
    · exact k.putTask _ _ rfl hp
  | setNextFadeColor i tgt start dur =>
    simp only [State.beginAction] at he
    cases he
    split
    · exact hp
    · exact k.putTask _ _ (readTask_ok _ _ _ _) hp
  | set i r g b br fields =>
    simp only [State.beginAction] at he
    cases he
    split
    · exact k.putTask _ _ (pixelWrites_ok (hostAccepted_brightness ‹_›) _ _ _) hp
    · exact hp
  | setNorm i r g b br =>
    simp only [State.beginAction] at he
    cases he
    split
    · exact k.putTask _ _ (normTask_ok _ _ _ _ _ _ _) hp
    · exact hp

theorem HostKeeps.runAction {P : State → Prop} (k : HostKeeps P) {a : HostAction} {s t : State}
    (he : s.runAction a = .next t) (hp : P s) : P t := by
  cases a with
  | command w =>
    simp only [State.runAction, State.runCommand] at he
    split at he
    · exact k.exec ‹_› he hp
    · cases he; exact k.refuse _ hp
  | decay i now =>
    cases he
    unfold State.decay
    split
    · exact hp
    · split
      · exact hp
      · dsimp only
        split
        · exact k.writeFade _ _ _ (k.setBrightness _ _ _ (k.respond _ _ hp))
        · exact k.respond _ _ hp
  | fade i now =>
    cases he
    unfold State.fadeStep
    split
    · exact hp
    · dsimp only
      split
      · exact hp
      · split
        · exact k.writeFade _ _ _ (k.setColour _ _ _ hp)
        · exact k.setColour _ _ _ hp
  | setNextFadeColor i tgt start dur =>
    cases he
    unfold State.setNextFadeColor
    split
    · exact hp
    · exact k.writeFade _ _ _ (k.respond _ _ hp)
  | set i r g b br fields =>
    cases he
    unfold State.hostSet
    split
    · cases fields with
      | none => exact k.setPixel _ _ _ hp
      | some f => exact k.writeFade _ _ _ (k.setPixel _ _ _ hp)
    · exact hp
  | setNorm i r g b br =>
    cases he
    unfold State.hostSetNorm
    split
    · dsimp only
      split
      · exact k.setNorm _ _ _ _ _ _ hp
      · exact k.writeFade _ _ _ (k.setNorm _ _ _ _ _ _ hp)
    · exact hp

/-- A property that the host's primitive changes keep, that does not look at the moves in store, and that the handler and
the consumer keep where they are enabled, is kept by every step. -/
theorem step_keeps {P : State → Prop} (k : HostKeeps P)
    (inputs : ∀ (s : State) l, P s → P { s with inputs := l })
    (sequencer : ∀ (s : State) e, s.cfg.eventSource = .consumer → s.pending = some e → P s → P (s.takePending.handle e))
    (consumer : ∀ s : State, s.consumerEnabled = true → P s → P s.consume)
    (inject : ∀ (s : State) e, s.cfg.eventSource = .external → P s → P (s.handle e))
    {s t : State} (h : step s = .next t) (hp : P s) : P t := by
  obtain ⟨-, h⟩ := step_cases h
  have hp' : P s.nextMove.2 := by rw [State.nextMove_frame]; exact inputs _ _ hp
  generalize s.nextMove.1 = m at h
  generalize s.nextMove.2 = u at h hp'
  cases m with
  | whole hst a =>
    simp only [State.takeTurn] at h
    split at h
    · cases h; exact hp'
    · exact k.runAction h hp'
  | split hst a =>
    simp only [State.takeTurn] at h
    split at h
    · cases h; exact hp'
    · exact k.beginAction h hp'
  | advance hst n => cases h; exact k.advance _ _ _ hp'
  | sequencer =>
    rcases u.sequencerStep_cases with ⟨e, hc, hpe, he⟩ | he <;>
      (simp only [State.takeTurn] at h; rw [he] at h; cases h)
    · exact sequencer _ _ hc hpe hp'
    · exact hp'
  | consumer =>
    cases h
    unfold State.consumerStep
    split
    · exact consumer _ ‹_› hp'
    · exact hp'
  | inject e =>
    rcases u.injectStep_cases e with ⟨hc, he⟩ | he <;>
      (simp only [State.takeTurn] at h; rw [he] at h; cases h)
    · exact inject _ _ hc hp'
    · exact hp'

/-- What a host move keeps, for a property that each primitive change of a host keeps. -/
theorem HostKeeps.takeTurn {P : State → Prop} (k : HostKeeps P) {s t : State} {m : Turn}
    (hm : (∃ h a, m = .whole h a) ∨ (∃ h a, m = .split h a) ∨ (∃ h n, m = .advance h n)) (h : s.takeTurn m = .next t)
    (hp : P s) : P t := by
  rcases hm with ⟨hst, a, rfl⟩ | ⟨hst, a, rfl⟩ | ⟨hst, n, rfl⟩
  · simp only [State.takeTurn] at h
    split at h
    · cases h; exact hp
    · exact k.runAction h hp
  · simp only [State.takeTurn] at h
    split at h
    · cases h; exact hp
    · exact k.beginAction h hp
  · cases h; exact k.advance _ _ _ hp

/-- After its handling an event is the last one, accepted or not. -/
theorem State.handle_lastEv (s : State) (e : Event) : (s.handle e).lastEv = e := by
  rcases s.handle_cases e with ⟨h, he⟩ | ⟨-, hp, he⟩ | ⟨-, hp, he⟩ <;> rw [he]
  · exact h.symm
  · rw [State.ledEvent_eq]
  · rw [State.resetEvent_eq]

/-! ### Runs -/

/-- A run of `k + 1` steps is a step and a run of `k`. -/
theorem core_run_succ {k : Nat} {s t : State} :
    core.run (k + 1) s = .next t ↔ ∃ u, step s = .next u ∧ core.run k u = .next t := by
  have hs : core.step s = step s := rfl
  simp only [Host.Core.run, hs]
  cases step s <;> simp

/-- A property that every step keeps holds at the end of every run. -/
theorem core_run_keeps {P : State → Prop} (hP : ∀ s t, P s → step s = .next t → P t) {k : Nat} {s t : State}
    (hr : core.run k s = .next t) (hs : P s) : P t := by
  induction k generalizing s with
  | zero => cases hr; exact hs
  | succ k ih =>
    obtain ⟨u, hu, hr⟩ := core_run_succ.1 hr
    exact ih hr (hP s u hs hu)

/-! ### Sequences in progress -/

/-- What one atomic step of a sequence can change: pixels, fade records, responses and its own progress. -/
theorem State.advance_frame (s : State) (h k : Nat) :
    s.advance h k = { s with
      pix := (s.advance h k).pix, fade := (s.advance h k).fade, resp := (s.advance h k).resp,
      tasks := (s.advance h k).tasks } := by
  unfold State.advance
  cases s.taskOf h with
  | none => rfl
  | some t =>
    dsimp only
    split
    · unfold State.finishTask
      dsimp only
      cases t.after with
      | decayTest now => dsimp only; split <;> rfl
      | decaySet => dsimp only; rw [State.setBrightness_frame]; rfl
      | _ => rfl
    · unfold State.makeAccess
      dsimp only
      split
      · rfl
      all_goals (unfold State.settleTask; split <;> rfl)

/-- A property that looks only at what no sequence changes is kept by every atomic step of a sequence. -/
theorem State.advance_keeps {P : State → Prop}
    (hP : ∀ (s : State) pix fade resp tasks, P s → P { s with pix := pix, fade := fade, resp := resp, tasks := tasks })
    (s : State) (h k : Nat) (hp : P s) : P (s.advance h k) := by
  rw [State.advance_frame]
  exact hP _ _ _ _ _ hp

end Sys2Proof.Machine
end

