-- ==== Sys2Proof/Laws/Sequences.lean ====
section
/-! SUPPORT. Sequences in progress and the host's fade records: read after write, what follows the accesses of a sequence, and
field accesses that commute. -/

namespace Sys2Proof.Machine

/-! ### Fade records -/

theorem State.readFade_writeFade_same (s : State) {i : Nat} (r : FadeRec) (h : i < s.fade.length) :
    (s.writeFade i r).readFade i = r := by
  simp [State.readFade, State.writeFade, h]

theorem State.readFade_writeFade_other (s : State) {i j : Nat} (r : FadeRec) (h : j ≠ i) :
    (s.writeFade i r).readFade j = s.readFade j := by
  simp [State.readFade, State.writeFade, List.getD, Ne.symm h]

theorem State.readPixel_congr {s t : State} (h : t.pix = s.pix) (i : Nat) : t.readPixel i = s.readPixel i := by
  simp [State.readPixel, h]

/-- A colour set through a host index. -/
theorem State.readPixel_setColour {s : State} (hw : Memory.wf s = true) {i : Nat} (hi : i < s.cfg.n) (hn : s.cfg.n ≤ 255)
    (c : Colour) : (s.setColour (ledIndex i) c).readPixel i = ⟨c.r, c.g, c.b, (s.readPixel i).br⟩ := by
  have hl : s.pix.length = s.cfg.n := ((Memory.wf_iff s).1 hw).1
  have hx : (ledIndex i).toNat = i := ledIndex_toNat (by omega)
  unfold State.setColour
  rw [if_pos (by simp [State.indexOk, hx, hi]), hx, State.readPixel_writeFields_same _ _ (by omega)]
  rfl

@[simp] theorem State.readFade_getPixel (s : State) (idx : Byte) (i : Nat) :
    (s.getPixel idx).readFade i = s.readFade i := rfl

@[simp] theorem State.readPixel_getPixel (s : State) (idx : Byte) (i : Nat) :
    (s.getPixel idx).readPixel i = s.readPixel i := rfl

/-- `GETPIX` of a host index responds with the record of its LED. -/
theorem State.getPixel_of_lt {s : State} {i : Nat} (hi : i < s.cfg.n) (hn : s.cfg.n ≤ 255) :
    s.getPixel (ledIndex i) = s.respond (responseWord (ledIndex i) (s.readPixel i)) := by
  have hx : (ledIndex i).toNat = i := ledIndex_toNat (by omega)
  simp [State.getPixel, State.pixelOrSentinel, State.indexOk, hx, hi]

/-- `DECAY` that goes no further than its `GETPIX`. -/
theorem State.decay_of_not_due {s : State} {i now : Nat} (hi : i < s.cfg.n) (he : (s.readFade i).fadeEnabled = true)
    (h : s.readField i .br = 0 ∨ now < (s.readFade i).nextFadeTime) : s.decay i now = s.getPixel (ledIndex i) := by
  have hd : (s.getPixel (ledIndex i)).decayDue i now (s.readField i .br) = false := by
    simp only [State.decayDue, State.readFade_getPixel]
    rcases h with h | h
    · simp [h]
    · simp [Nat.not_le.2 h]
  unfold State.decay
  rw [if_neg (by omega)]
  simp only [he, Bool.not_true, Bool.false_eq_true, if_false, hd]

/-- `DECAY` past its tests. -/
theorem State.decay_of_due {s : State} {i now : Nat} (hi : i < s.cfg.n) (he : (s.readFade i).fadeEnabled = true)
    (hb : s.readField i .br ≠ 0) (hn : (s.readFade i).nextFadeTime ≤ now) :
    s.decay i now =
      ((s.getPixel (ledIndex i)).setBrightness (ledIndex i) (s.readField i .br - 1)).advanceDeadline i := by
  have hb' : (s.readField i .br == 0) = false := by simpa using hb
  have hd : (s.getPixel (ledIndex i)).decayDue i now (s.readField i .br) = true := by
    simp only [State.decayDue, State.readFade_getPixel, bne, hb', hn]; rfl
  unfold State.decay
  rw [if_neg (by omega)]
  simp only [he, Bool.not_true, Bool.false_eq_true, if_false, hd, if_true]

theorem Memory.wf_getPixel {s : State} (h : Memory.wf s = true) (idx : Byte) : Memory.wf (s.getPixel idx) = true := h

theorem Memory.wf_decay {s : State} (h : Memory.wf s = true) (i now : Nat) : Memory.wf (s.decay i now) = true := by
  unfold State.decay
  split
  · exact h
  · split
    · exact h
    · dsimp only
      split
      · exact Memory.wf_writeFade (Memory.wf_setBrightness (Memory.wf_getPixel h _) _ _) _ _
      · exact Memory.wf_getPixel h _

theorem State.decay_cfg (s : State) (i now : Nat) : (s.decay i now).cfg = s.cfg := by
  unfold State.decay
  split
  · rfl
  · split
    · rfl
    · dsimp only
      split
      · unfold State.advanceDeadline State.writeFade; simp [State.getPixel]
      · rfl

/-! ### Which sequences are in progress -/

theorem State.busy_congr {s t : State} (h : t.tasks = s.tasks) (x : Nat) : t.busy x = s.busy x := by
  simp [State.busy, State.taskOf, h]

theorem State.taskOf_of_not_busy {s : State} {h : Nat} (hb : s.busy h = false) : s.taskOf h = none := by
  simpa [State.busy] using hb

theorem State.advance_of_not_busy {s : State} {h : Nat} (hb : s.busy h = false) (k : Nat) : s.advance h k = s := by
  simp [State.advance, State.taskOf_of_not_busy hb]

theorem State.foldl_advance_of_not_busy {s : State} {h : Nat} (hb : s.busy h = false) (order : List Nat) :
    order.foldl (fun u k => u.advance h k) s = s := by
  induction order with
  | nil => rfl
  | cons k ks ih => rw [List.foldl_cons, State.advance_of_not_busy hb, ih]

theorem State.putTask_putTask (s : State) {t u : Task} (h : t.host = u.host) : (s.putTask t).putTask u = s.putTask u := by
  simp [State.putTask, h]

theorem State.dropTask_putTask {s : State} {t : Task} (hb : s.busy t.host = false) : (s.putTask t).dropTask t.host = s := by
  simp [State.putTask, State.dropTask, State.filter_of_not_busy s t.host hb]

theorem State.freshHost_not_busy (s : State) : s.busy s.freshHost = false := by
  have key : ∀ l : List Task, ∀ t ∈ l, t.host < l.foldr (fun t m => max (t.host + 1) m) 0 := by
    intro l
    induction l with
    | nil => simp
    | cons a l ih =>
      intro t ht
      rcases List.mem_cons.1 ht with rfl | h
      · simp
      · have := ih t h
        simp only [List.foldr_cons]; omega
  simp only [State.busy, State.taskOf]
  rw [Option.isSome_eq_false_iff, Option.isNone_iff_eq_none, List.find?_eq_none]
  intro t ht
  have := key _ t ht
  simp only [State.freshHost, beq_iff_eq]; omega

/-! ### The end of a sequence -/

/-- A sequence with no access left does what follows. -/
theorem State.advance_of_no_access {s : State} {t : Task} (ht : t.todo = []) (k : Nat) :
    (s.putTask t).advance t.host k = (s.putTask t).finishTask t := by
  unfold State.advance
  rw [State.taskOf_putTask]
  simp [ht]

/-- Settling a sequence that has nothing after its accesses. -/
theorem State.settleTask_done {s : State} {t : Task} (hb : s.busy t.host = false) (ha : t.after = .done) :
    s.settleTask { t with todo := [] } = s := by
  unfold State.settleTask
  rw [if_pos (by rw [ha]; rfl)]
  simp only [State.dropTask, State.filter_of_not_busy _ _ hb]

/-- Settling a sequence that has something after its accesses. -/
theorem State.settleTask_more (s : State) {t : Task} (ha : t.after ≠ .done) :
    s.settleTask { t with todo := [] } = s.putTask { t with todo := [] } := by
  unfold State.settleTask
  rw [if_neg (by simp [ha])]

theorem State.settleTask_pix (s : State) (t : Task) : (s.settleTask t).pix = s.pix := by
  unfold State.settleTask
  split <;> rfl

/-! ### Accesses that commute -/

theorem Pixel.put_comm (p : Pixel) {f f' : Field} (h : f ≠ f') (v v' : Byte) :
    (p.put f v).put f' v' = (p.put f' v').put f v := by
  cases f <;> cases f' <;> first | rfl | exact absurd rfl h

theorem State.writeField_comm (s : State) (i : Nat) {f f' : Field} (h : f ≠ f') (v v' : Byte) :
    (s.writeField i f v).writeField i f' v' = (s.writeField i f' v').writeField i f v := by
  by_cases hi : i < s.pix.length
  · have a := State.readPixel_writeField_same s f v hi
    have b := State.readPixel_writeField_same s f' v' hi
    unfold State.writeField at *
    simp only at a b ⊢
    rw [a, b]
    simp [Pixel.put_comm _ h]
  · simp [State.writeField, List.set_eq_of_length_le (Nat.le_of_not_lt hi)]

/-- Field writes of one LED, as one change of its record. -/
theorem State.writeFields_eq (s : State) (i : Nat) {ws : List (Field × Byte)} (h : ws ≠ []) :
    s.writeFields i ws = { s with pix := s.pix.set i (ws.foldl (fun p w => p.put w.1 w.2) (s.readPixel i)) } := by
  induction ws generalizing s with
  | nil => exact absurd rfl h
  | cons w ws ih =>
    show (s.writeField i w.1 w.2).writeFields i ws = _
    by_cases hw : ws = []
    · subst hw; rfl
    · rw [ih _ hw, List.foldl_cons]
      by_cases hi : i < s.pix.length
      · rw [State.readPixel_writeField_same _ _ _ hi]
        simp [State.writeField]
      · simp [State.writeField, List.set_eq_of_length_le (Nat.le_of_not_lt hi)]

end Sys2Proof.Machine
end

