-- ==== Sys2Proof/Laws/RunAlone.lean ====
section
/-! SUPPORT. A sequence carried on with no other agent's step inside: what its accesses come to in any order, and how a run of
it is composed of its elements. -/

namespace Sys2Proof.Machine

/-- The accesses of a list, made in its order: the state and the values read. -/
def doAccesses (led : Nat) : List Access → State × Pixel → State × Pixel
  | [], x => x
  | .write f v :: as, (s, g) => doAccesses led as (s.writeField led f v, g)
  | .read f :: as, (s, g) => doAccesses led as (s, g.put f (s.readField led f))
  | .host w :: as, (s, g) => doAccesses led as (s.putFade led w, g)

/-- Two accesses whose order makes no difference. -/
def Access.commutes (a b : Access) : Prop := ∀ led x, doAccesses led [a, b] x = doAccesses led [b, a] x

/-- From `u`, every run of at least `n` steps of host context `h` alone ends in `r`. -/
def State.endsIn (h n : Nat) (u r : State) : Prop :=
  ∀ order : List Nat, n ≤ order.length → order.foldl (fun u k => u.advance h k) u = r

/-! ### Accesses that commute -/

theorem FadeRec.put_comm (r : FadeRec) {w w' : FadeWrite} (h : w.ctorIdx ≠ w'.ctorIdx) :
    (r.put w).put w' = (r.put w').put w := by
  cases w <;> cases w' <;> first | rfl | exact absurd rfl h

theorem State.putFade_comm (s : State) (i : Nat) {w w' : FadeWrite} (h : w.ctorIdx ≠ w'.ctorIdx) :
    (s.putFade i w).putFade i w' = (s.putFade i w').putFade i w := by
  unfold State.putFade
  by_cases hi : i < s.fade.length
  · rw [State.readFade_writeFade_same _ _ hi, State.readFade_writeFade_same _ _ hi]
    simp [State.writeFade, FadeRec.put_comm _ h]
  · simp [State.writeFade, List.set_eq_of_length_le (Nat.le_of_not_lt hi)]

theorem Access.commutes_symm {a b : Access} (h : a.commutes b) : b.commutes a := fun led x => (h led x).symm

theorem Access.commutes_write {f f' : Field} (h : f ≠ f') (v v' : Byte) : (Access.write f v).commutes (.write f' v') := by
  rintro led ⟨s, g⟩
  simp only [doAccesses]
  rw [State.writeField_comm _ _ h]

theorem Access.commutes_read {f f' : Field} (h : f ≠ f') : (Access.read f).commutes (.read f') := by
  rintro led ⟨s, g⟩
  simp only [doAccesses]
  rw [Pixel.put_comm _ h]

theorem Access.commutes_host {w w' : FadeWrite} (h : w.ctorIdx ≠ w'.ctorIdx) : (Access.host w).commutes (.host w') := by
  rintro led ⟨s, g⟩
  simp only [doAccesses]
  rw [State.putFade_comm _ _ h]

theorem Access.commutes_write_host (f : Field) (v : Byte) (w : FadeWrite) : (Access.write f v).commutes (.host w) :=
  fun _ _ => rfl

/-- The host writes of `setNextFadeColor` and of the host form of `set` commute. -/
theorem descriptorWrites_commute (tgt : Colour) (start dur : Nat) :
    [Access.host (.tgt tgt), .host (.start start), .host (.dur dur)].Pairwise Access.commutes := by
  simp only [List.pairwise_cons, List.mem_cons, List.not_mem_nil, or_false, forall_eq_or_imp, forall_eq, false_imp_iff,
    implies_true, List.Pairwise.nil, and_true]
  refine ⟨⟨?_, ?_⟩, ?_⟩ <;> exact Access.commutes_host (by simp [FadeWrite.ctorIdx])

theorem fadeFieldWrites_commute (f : FadeFields) :
    [Access.host (.fadeEnabled f.fadeEnabled), .host (.decayDelay f.decayDelay),
      .host (.nextFadeTime f.nextFadeTime)].Pairwise Access.commutes := by
  simp only [List.pairwise_cons, List.mem_cons, List.not_mem_nil, or_false, forall_eq_or_imp, forall_eq, false_imp_iff,
    implies_true, List.Pairwise.nil, and_true]
  refine ⟨⟨?_, ?_⟩, ?_⟩ <;> exact Access.commutes_host (by simp [FadeWrite.ctorIdx])

/-- A fade record written, and then written from what it has become. -/
theorem State.writeFade_again (s : State) (i : Nat) (r : FadeRec) (g : FadeRec → FadeRec) :
    (s.writeFade i r).writeFade i (g ((s.writeFade i r).readFade i)) = s.writeFade i (g r) := by
  by_cases hi : i < s.fade.length
  · rw [State.readFade_writeFade_same _ _ hi]
    simp [State.writeFade]
  · simp [State.writeFade, List.set_eq_of_length_le (Nat.le_of_not_lt hi)]

theorem State.putFade_writeFade (s : State) (i : Nat) (r : FadeRec) (w : FadeWrite) :
    (s.writeFade i r).putFade i w = s.writeFade i (r.put w) :=
  s.writeFade_again i r (·.put w)

/-! ### Accesses in any order -/

theorem doAccesses_append (led : Nat) (as bs : List Access) (x : State × Pixel) :
    doAccesses led (as ++ bs) x = doAccesses led bs (doAccesses led as x) := by
  induction as generalizing x with
  | nil => rfl
  | cons a as ih => obtain ⟨s, g⟩ := x; cases a <;> exact ih _

theorem doAccesses_cons (led : Nat) (a : Access) (as : List Access) (x : State × Pixel) :
    doAccesses led (a :: as) x = doAccesses led as (doAccesses led [a] x) :=
  doAccesses_append led [a] as x

/-- Of accesses that commute pairwise, any one may come first. -/
theorem doAccesses_first (led : Nat) {j : Nat} {l : List Access} {a : Access} (hj : l[j]? = some a)
    (hc : l.Pairwise Access.commutes) (x : State × Pixel) :
    doAccesses led (a :: l.eraseIdx j) x = doAccesses led l x := by
  induction l generalizing j x with
  | nil => simp at hj
  | cons b l ih =>
    cases j with
    | zero => simp at hj; subst hj; rfl
    | succ j =>
      simp only [List.getElem?_cons_succ] at hj
      obtain ⟨hb, hc⟩ := List.pairwise_cons.1 hc
      have swap := doAccesses_append led [a, b] (l.eraseIdx j) x
      rw [Access.commutes_symm (hb a (List.mem_of_getElem? hj)), ← doAccesses_append] at swap
      rw [List.eraseIdx_cons_succ, doAccesses_cons led b l, ← ih hj hc, ← doAccesses_cons led b]
      exact swap

theorem doAccesses_tasks (led : Nat) (l : List Access) (x : State × Pixel) : (doAccesses led l x).1.tasks = x.1.tasks := by
  induction l generalizing x with
  | nil => rfl
  | cons a as ih => obtain ⟨s, g⟩ := x; cases a <;> exact ih _

theorem doAccesses_writes (led : Nat) (ws : List (Field × Byte)) (s : State) (g : Pixel) :
    doAccesses led (ws.map fun w => .write w.1 w.2) (s, g) = (s.writeFields led ws, g) := by
  induction ws generalizing s with
  | nil => rfl
  | cons w ws ih => exact ih _

theorem doAccesses_reads (led : Nat) (fs : List Field) (s : State) (g : Pixel) :
    doAccesses led (fs.map .read) (s, g) = (s, fs.foldl (fun g f => g.put f (s.readField led f)) g) := by
  induction fs generalizing g with
  | nil => rfl
  | cons w ws ih => exact ih _

/-- The four reads of a `GETPIX`, in the order listed, give the record. -/
theorem State.foldl_pixelReads (s : State) (i : Nat) :
    pixelReads.foldl (fun g f => g.put f (s.readField i f)) Pixel.zero = s.readPixel i := rfl

theorem pixelReads_commute (hst led : Nat) (a : After) :
    (readTask hst led pixelReads a).todo.Pairwise Access.commutes := by
  simp [readTask, pixelReads, Access.commutes_read]

/-- A sequence's `GETPIX` of a host index, its reads made, responds as `GETPIX` does. -/
theorem State.respondTo_eq_getPixel {s : State} {t : Task} {i : Nat} (hi : i < s.cfg.n) (hn : s.cfg.n ≤ 255)
    (hl : t.led = i) (hg : t.got = s.readPixel i) : s.respondTo t = s.getPixel (ledIndex i) := by
  rw [State.getPixel_of_lt hi hn, State.respondTo, hl, hg]

theorem pixelWrites_commute (p : Pixel) (hst led : Nat) (a : After) :
    (writeTask hst led (pixelWrites p) a).todo.Pairwise Access.commutes := by
  simp [writeTask, pixelWrites, Access.commutes_write]

theorem colourWrites_commute (c : Colour) (hst led : Nat) (a : After) :
    (writeTask hst led (colourWrites c) a).todo.Pairwise Access.commutes := by
  simp [writeTask, colourWrites, Access.commutes_write]

theorem normTask_commutes (hst led : Nat) (r g b br : Byte) (cfg : Config) :
    (normTask hst led r g b br cfg).todo.Pairwise Access.commutes := by
  unfold normTask
  dsimp only
  split <;> simp [writeTask, colourWrites, Access.commutes_write, Access.commutes_write_host]

/-! ### Runs of one sequence -/

theorem State.dropTask_of_not_busy {s : State} {h : Nat} (hb : s.busy h = false) : s.dropTask h = s := by
  simp only [State.dropTask, State.filter_of_not_busy _ _ hb]

/-- An element of a sequence acts on the state without that sequence. -/
theorem State.finishTask_putTask {s : State} {t : Task} (hb : s.busy t.host = false) :
    (s.putTask t).finishTask t = s.finishTask t := by
  unfold State.finishTask
  rw [State.dropTask_putTask hb, State.dropTask_of_not_busy hb]

/-- A host context with nothing in progress has ended. -/
theorem State.endsIn_idle {s : State} {h : Nat} (hb : s.busy h = false) (n : Nat) : State.endsIn h n s s :=
  fun order _ => State.foldl_advance_of_not_busy hb order

theorem State.endsIn_mono {h n m : Nat} {u r : State} (he : State.endsIn h n u r) (hm : n ≤ m) : State.endsIn h m u r :=
  fun order ho => he order (by omega)

/-- A sequence with no access left: its next element, then the rest of the run. -/
theorem State.endsIn_element {s r : State} {t : Task} {h n : Nat} (hh : t.host = h) (hb : s.busy h = false)
    (ht : t.todo = []) (he : State.endsIn h n (s.finishTask t) r) : State.endsIn h (n + 1) (s.putTask t) r := by
  subst hh
  intro order ho
  cases order with
  | nil => simp at ho
  | cons k ks =>
    rw [List.foldl_cons, State.advance_of_no_access ht, State.finishTask_putTask hb]
    exact he ks (by simpa using ho)

/-- A sequence with accesses that commute: all of them, then the rest of the run. -/
theorem State.endsIn_accesses {s r : State} {t : Task} {h n : Nat} (hh : t.host = h) (hb : s.busy h = false)
    (hne : t.todo ≠ []) (hc : t.todo.Pairwise Access.commutes)
    (he : State.endsIn h n
      ((doAccesses t.led t.todo (s, t.got)).1.settleTask { t with todo := [], got := (doAccesses t.led t.todo (s, t.got)).2 })
      r) :
    State.endsIn h (n + t.todo.length) (s.putTask t) r := by
  subst hh
  intro order
  induction order generalizing s t with
  | nil =>
    intro ho
    have := List.length_pos_iff.2 hne
    simp only [List.length_nil] at ho; omega
  | cons k ks ih =>
    intro ho
    have hj := Nat.mod_lt k (List.length_pos_iff.2 hne)
    have hadv : (s.putTask t).advance t.host k = (s.putTask t).makeAccess t (k % t.todo.length) := by
      unfold State.advance
      rw [State.taskOf_putTask]
      simp [hne]
    rw [List.foldl_cons, hadv]
    generalize k % t.todo.length = j at hj
    obtain ⟨a, ha⟩ : ∃ a, t.todo[j]? = some a := ⟨_, List.getElem?_eq_getElem hj⟩
    obtain ⟨s', g', hs', hm⟩ : ∃ s' g', doAccesses t.led [a] (s, t.got) = (s', g') ∧
        (s.putTask t).makeAccess t j = (s'.putTask t).settleTask { t with todo := t.todo.eraseIdx j, got := g' } := by
      unfold State.makeAccess
      dsimp only
      rw [ha]
      cases a <;> exact ⟨_, _, rfl, rfl⟩
    have hb' : s'.busy t.host = false := by
      have := doAccesses_tasks t.led [a] (s, t.got)
      rw [hs'] at this
      rw [State.busy_congr this]; exact hb
    have hlen : (t.todo.eraseIdx j).length + 1 = t.todo.length := by rw [List.length_eraseIdx, if_pos hj]; omega
    rw [← doAccesses_first t.led ha hc, doAccesses_cons, hs'] at he
    rw [hm]
    by_cases hr : t.todo.eraseIdx j = []
    · rw [hr] at he ⊢
      have : (s'.putTask t).settleTask { t with todo := [], got := g' } = s'.settleTask { t with todo := [], got := g' } := by
        unfold State.settleTask
        dsimp only
        split
        · exact (State.dropTask_putTask hb').trans (State.dropTask_of_not_busy hb').symm
        · exact State.putTask_putTask _ rfl
      rw [this]
      rw [hr] at hlen
      exact he ks (by simp only [List.length_cons, List.length_nil] at ho hlen; omega)
    · have : (s'.putTask t).settleTask { t with todo := t.todo.eraseIdx j, got := g' } =
          s'.putTask { t with todo := t.todo.eraseIdx j, got := g' } := by
        unfold State.settleTask
        rw [if_neg (by simp [hr])]
        exact State.putTask_putTask _ rfl
      rw [this]
      exact ih (t := { t with todo := t.todo.eraseIdx j, got := g' }) hr (hc.sublist (List.eraseIdx_sublist ..)) hb' he
        (by simp only [List.length_cons] at ho ⊢; omega)

end Sys2Proof.Machine
end

