-- ==== Sys2Proof/Tests/Slice0.lean ====
section
/-! SUPPORT. Tests, each with its source in spec/, and one witness per statement of Obligations.lean that has hypotheses: a
concrete state and operands that meet them all together. -/

namespace Sys2Proof.Machine.Tests

/-! ### Small states -/

/-- `N = 3`, `T = 2`, `CONSUMER`, the codes of spec/95_test_vectors.md section 0. -/
def cfg3 : Config := { Config.test with n := 3 }
/-- The same in the `EXTERNAL` configuration. -/
def cfg3x : Config := { cfg3 with eventSource := .external }
/-- The pixels of V-SEQ-1. -/
def pix3 : List Pixel := [⟨255, 0, 0, 100⟩, ⟨0, 255, 0, 100⟩, ⟨0, 0, 255, 50⟩]
/-- After reset, with the pixels of V-SEQ-1 and a buffer of sevens. -/
def ex : State := State.resetWith cfg3 pix3 (Vector.replicate 48 7)
/-- The same in the `EXTERNAL` configuration. -/
def exx : State := State.resetWith cfg3x pix3 (Vector.replicate 48 7)
/-- After reset with every draw zero. -/
def zero3 : State := State.resetWith cfg3 (List.replicate 3 Pixel.zero) (Vector.replicate 48 0)

/-- The next state of an outcome, or a given one. -/
def stateOr (s : State) : Host.Outcome State Fault Refusal → State
  | .next t => t
  | _ => s
/-- The state after an instruction. -/
def run1 (i : Instr) (s : State) : State := stateOr s (exec i s)
/-- The state after one step with the given moves in store. -/
def stepWith (s : State) (moves : List Turn) : State := stateOr s (step { s with inputs := moves })
/-- The state after a command word. -/
def word (w : CommandWord) (s : State) : State := stepWith s [.whole 0 (.command w)]

/-- `PRIME` done. -/
def primed : State := run1 .prime ex
/-- `PRIME` done, `EXTERNAL`. -/
def primedx : State := run1 .prime exx
/-- `PRIME` and `START` done. -/
def started : State := run1 .start primed

def longs (n : Nat) : List Byte := List.replicate n 0x4B
def shorts (n : Nat) : List Byte := List.replicate n 0x19
def idle : List Byte := List.replicate 24 0
/-- `L0`, `L1`, `L2` of V-SEQ-1. -/
def led0 : List Byte := longs 8 ++ shorts 16
def led1 : List Byte := shorts 8 ++ longs 8 ++ shorts 8
def led2 : List Byte := shorts 17 ++ longs 7
/-- The two halves of the buffer. -/
def half0 (s : State) : List Byte := s.tb.toList.take 24
def half1 (s : State) : List Byte := s.tb.toList.drop 24

/-! ### Well-formedness (30_encoding.md R113) and configurations (00_scope.md R7 to R10, R14) -/

theorem test_refuses_too_few_operands : Written.wellFormed ⟨.setpix, [2, 0, 0, 255]⟩ = false := by decide
theorem test_refuses_too_many_operands : Written.wellFormed ⟨.prime, [0]⟩ = false := by decide
theorem test_refuses_operand_256 : Written.wellFormed ⟨.setbrt, [0, 256]⟩ = false := by decide
theorem test_accepts_operand_255 : Written.wellFormed ⟨.setbrt, [255, 255]⟩ = true := by decide

theorem test_refuses_led_counts : ({ cfg3 with n := 2 } : Config).valid = false
    ∧ ({ cfg3 with n := 256 } : Config).valid = false := by decide
theorem test_refuses_thresholds : ({ cfg3 with t := 1 } : Config).valid = false
    ∧ ({ cfg3 with t := 256 } : Config).valid = false := by decide
theorem test_refuses_codes : ({ cfg3 with code0 := 0 } : Config).valid = false
    ∧ ({ cfg3 with code1 := 0x19 } : Config).valid = false
    ∧ ({ cfg3 with period := 74 } : Config).valid = false
    ∧ ({ cfg3 with period := 300, code1 := 256 } : Config).valid = false := by decide
theorem test_refuses_other_maximum_brightness : ({ cfg3 with maxB := 99 } : Config).valid = false := by decide
theorem test_bad_configuration_is_refused :
    step { ex with cfg := { cfg3 with n := 2 } } = .refused .badConfiguration := rfl

/-! ### Decoding words written out from R104, R105, R111 (V-DEC, L1, P3) -/

theorem test_decode_setpix : decodeTableWord 64 0x01020000FF320000 = some (.setpix 2 0 0 255 50) := by decide
theorem test_decode_setcol : decodeTableWord 64 0x02010A141E000000 = some (.setcol 1 10 20 30) := by decide
theorem test_decode_setbrt : decodeTableWord 64 0x03010000004D0000 = some (.setbrt 1 77) := by decide
theorem test_decode_setnorm : decodeTableWord 64 0x04000A141E1E0000 = some (.setnorm 0 10 20 30 30) := by decide
theorem test_decode_getpix : decodeTableWord 64 0x05FF000000000000 = some (.getpix 255) := by decide
theorem test_decode_prime : decodeTableWord 64 0x1000000000000000 = some .prime := by decide
theorem test_decode_start : decodeTableWord 64 0x1100000000000000 = some .start := by decide
theorem test_decode_half_drained : decodeTableWord 8 0 = some .halfDrained := by decide
theorem test_decode_fully_drained : decodeTableWord 8 1 = some .fullyDrained := by decide
theorem test_decode_rejects_opcodes : decodeCommand 0x0000000000000000 = .error .reservedOpcode
    ∧ decodeCommand 0x0600000000000000 = .error .reservedOpcode
    ∧ decodeCommand 0xFF00000000000000 = .error .reservedOpcode := by decide
theorem test_decode_rejects_reserved_bits : decodeCommand 0x0200000000010000 = .error .nonzeroReservedField
    ∧ decodeCommand 0x0300000100320000 = .error .nonzeroReservedField
    ∧ decodeCommand 0x0501000000010000 = .error .nonzeroReservedField
    ∧ decodeCommand 0x1000000000000001 = .error .nonzeroReservedField
    ∧ decodeCommand 0x0100FF0000640001 = .error .nonzeroReservedField := by decide
/-- V-DEC: "`REFUSED = 1`, nothing else". -/
theorem test_refused_word_sets_refused : word 0x1000000000000001 zero3 = { zero3 with refused := true } := by decide

/-! ### Instructions, one step each -/

/-- L3 P1: `SETPIX 2, 0, 0, 255, 50`. -/
theorem test_setpix : (word 0x01020000FF320000 zero3).readPixel 2 = ⟨0, 0, 255, 50⟩ := by decide
/-- V-PIX 2: `SETPIX 0, 9, 9, 9, 101` is rejected whole. -/
theorem test_setpix_rejected : word 0x0100090909650000 ex = ex := by decide
/-- V-PIX 5: `SETCOL 0, 0xB0, 0, 0` keeps `BR`. -/
theorem test_setcol : (word 0x0200B00000000000 ex).readPixel 0 = ⟨176, 0, 0, 100⟩ := by decide
/-- L3 P3: `SETCOL 7, 1, 2, 3` is a no-op. -/
theorem test_setcol_out_of_range : word 0x0207010203000000 ex = ex := by decide
/-- V-PIX 7: `SETBRT 0, 100` is accepted. -/
theorem test_setbrt : (word 0x0300000000640000 zero3).readPixel 0 = ⟨0, 0, 0, 100⟩ := by decide
/-- L1-1: `SETBRT 1, 101` is a no-op. -/
theorem test_setbrt_rejected : word 0x0301000000650000 ex = ex := by decide
/-- V-NORM: `(10, 20, 30, 30)` writes `(26, 51, 77)`; `BR` stays. -/
theorem test_setnorm : (word 0x04000A141E1E0000 ex).readPixel 0 = ⟨26, 51, 77, 100⟩ := by decide
/-- V-NORM: all-zero input at 50 writes `(128, 128, 128)`. -/
theorem test_setnorm_all_zero : (word 0x0400000000320000 ex).readPixel 0 = ⟨128, 128, 128, 100⟩ := by decide
/-- R150's example, on the pixel `(0, 255, 0, 100)`. -/
theorem test_getpix : (word 0x0501000000000000 ex).resp = [0x050100FF00640000] := by decide
/-- V-PIX 11: the sentinel. -/
theorem test_getpix_sentinel : (word 0x0503000000000000 ex).resp = [0x0503000000000000] := by decide
/-- V-SEQ-1: `PRIME`. -/
theorem test_prime : (word 0x1000000000000000 ex).status = 0x00000206
    ∧ half0 (word 0x1000000000000000 ex) = led0 ∧ half1 (word 0x1000000000000000 ex) = led1 := by decide
/-- V-PROT: `PRIME` after `START` faults and changes nothing else. -/
theorem test_prime_after_start : word 0x1000000000000000 started = { started with fHostProtocol := true } := by decide
/-- V-DEC: `START` before `PRIME`. -/
theorem test_start_before_prime : (word 0x1100000000000000 zero3).status = 0x00000022 := by decide
/-- V-PROT: `PRIME`, then `START`. -/
theorem test_start : (word 0x1100000000000000 primed).status = 0x0000020E := by decide
/-- V-SEQ-1 event 1: half 0 takes LED 2, and `RESET_DATA` is entered in the same step. -/
theorem test_half_drained : (stepWith primedx [.inject .half]).status = 0x00000305
    ∧ half0 (stepWith primedx [.inject .half]) = led2 ∧ half1 (stepWith primedx [.inject .half]) = led1 := by decide
/-- L1-5: a repeated `HALF_DRAINED` is only logged. -/
theorem test_half_drained_repeated :
    run1 .halfDrained (run1 .halfDrained primedx) = { run1 .halfDrained primedx with obs := [.desync .half] } := by decide
/-- V-SEQ-1 event 2: half 1 takes idle codes and `RCOUNT = 1`. -/
theorem test_fully_drained : (run1 .fullyDrained (run1 .halfDrained primedx)).status = 0x00010307
    ∧ half1 (run1 .fullyDrained (run1 .halfDrained primedx)) = idle := by decide
/-- V-SEQ-2: the first `FULLY_DRAINED` after `PRIME` is ignored. -/
theorem test_fully_drained_first : run1 .fullyDrained primedx = { primedx with obs := [.desync .full] } := by decide
/-- V-SEQ-1 event 5 (`T = 4`): `RCOUNT` reaches `T`, no byte is written, `LED_DATA` with `CURSOR = 0`. -/
theorem test_reset_phase_ends :
    let s := { primedx with cfg := { cfg3x with t := 4 }, phase := .resetData, cursor := 3, rcount := 3, lastEv := .full }
    (run1 .halfDrained s).status = 0x00040004 ∧ (run1 .halfDrained s).tb = s.tb := by decide

/-! ### The consumer, the encoder, sequences, the host -/

/-- V-CON-1: step 24 sends `TB[23]`, raises `HALF_DRAINED` and leaves `RD = 24`. -/
theorem test_consumer_raises : (stepWith { started with rd := 23 } [.consumer]).wire = [0x19]
    ∧ (stepWith { started with rd := 23 } [.consumer]).rd = 24
    ∧ (stepWith { started with rd := 23 } [.consumer]).pending = some .half := by decide
/-- V-CON-2: step 48 finds `PENDING` set. -/
theorem test_overrun : (stepWith { started with rd := 47, pending := some .half } [.consumer]).status = 0x0000025E := by
  decide
/-- V-ENC: `(200, 100, 50, 33)` has the effective colour `(66, 33, 16)`. -/
theorem test_encode_truncates :
    half0 (({ ex with pix := [⟨200, 100, 50, 33⟩] } : State).encodeLed 0 .first) =
      [0x19, 0x4B, 0x19, 0x19, 0x19, 0x19, 0x4B, 0x19, 0x19, 0x19, 0x4B, 0x19, 0x19, 0x19, 0x19, 0x4B,
       0x19, 0x19, 0x19, 0x4B, 0x19, 0x19, 0x19, 0x19] := by decide
/-- V-ENC: `ENCODE(3, 1)` with `N = 3` writes nothing. -/
theorem test_encode_out_of_range : ex.encodeLed 3 .second = ex := by decide
/-- V-PIX, torn update: after the `R` write of `SETPIX 1, 255, 255, 255, 100` the pixel reads `(255, 0, 0, 100)`. -/
theorem test_torn_setpix :
    let s := { ex with pix := [Pixel.zero, ⟨0, 0, 0, 100⟩, Pixel.zero] }
    ((stepWith s [.split 0 (.command 0x0101FFFFFF640000)]).advance 0 0).readPixel 1 = ⟨255, 0, 0, 100⟩ := by decide
/-- L1-6 at 35. -/
theorem test_fade_midway :
    let s := ({ zero3 with } : State).setNextFadeColor 0 ⟨200, 100, 50⟩ 10 100
    (s.fadeStep 0 35).readPixel 0 = ⟨50, 25, 12, 0⟩ := by decide
/-- L1-6, the decreasing fade, at 50. -/
theorem test_fade_decreasing :
    let s := ({ zero3 with pix := [⟨200, 100, 50, 0⟩] } : State).setNextFadeColor 0 ⟨0, 50, 255⟩ 0 100
    (s.fadeStep 0 50).readPixel 0 = ⟨100, 75, 152, 0⟩ := by decide
/-- V-FADE: a fade of no duration ends at once. -/
theorem test_fade_no_duration :
    let s := (zero3.setNextFadeColor 0 ⟨1, 2, 3⟩ 5 0).fadeStep 0 0
    s.readPixel 0 = ⟨1, 2, 3, 0⟩ ∧ (s.readFade 0).finished = true := by decide
/-- The state of L1-7. -/
def decaying : State :=
  { zero3 with
    pix := [⟨0, 0, 0, 3⟩, Pixel.zero, Pixel.zero],
    fade := [{ FadeRec.inert with fadeEnabled := true, decayDelay := 5, nextFadeTime := 5 }, FadeRec.inert, FadeRec.inert] }
/-- L1-7 at 4 and at 5; the read is a `GETPIX` (R71, log 23), answered as R110 lays out. -/
theorem test_decay : decaying.decay 0 4 = { decaying with resp := [0x0500000000030000] }
    ∧ ((decaying.decay 0 5).readPixel 0).br = 2 ∧ ((decaying.decay 0 5).readFade 0).nextFadeTime = 10 := by decide
/-- R257 reads by a `GETPIX` (R71, log 23), whose response is that of R150's example. -/
theorem test_set_next_fade_color_responds :
    (ex.setNextFadeColor 1 ⟨1, 2, 3⟩ 0 1).resp = [0x050100FF00640000]
      ∧ ((ex.setNextFadeColor 1 ⟨1, 2, 3⟩ 0 1).readFade 1).init = ⟨0, 255, 0⟩ := by decide
/-- R253: another host's `SETBRT 0, 100` between `DECAY`'s test and its `SETBRT` is lost; the read saw 3. -/
theorem test_decay_race :
    let begun := stepWith decaying [.split 1 (.decay 0 5)]
    let tested := (List.replicate 6 0).foldl (fun s k => s.advance 1 k) begun
    ((word 0x0300000000640000 tested).advance 1 0).readField 0 .br = 2
      ∧ tested.resp = [0x0500000000030000] := by decide
/-- R254: a `FADE` begun before another host's `setNextFadeColor` reads the new descriptor in its own later elements. -/
theorem test_fade_race :
    let s := zero3.setNextFadeColor 0 ⟨1, 2, 3⟩ 0 1
    let begun := stepWith s [.split 1 (.fade 0 1)]
    let tested := begun.advance 1 0
    let raced := tested.setNextFadeColor 0 ⟨7, 8, 9⟩ 0 1
    (((raced.advance 1 0).advance 1 0).readField 0 .r) = 7 := by decide
/-- V-FADE: the wrapper of `SETNORM` with `br = 30`. -/
theorem test_host_setnorm_delay : ((zero3.hostSetNorm 0 10 20 30 30).readFade 0).decayDelay = 33 := by decide
/-- R114: the worked encoding, from its line. -/
theorem test_assemble_line :
    ((parseLine ['S', 'E', 'T', 'P', 'I', 'X', ' ', '2', ',', ' ', '0', ',', '0', ',', ' ', '0', 'x', 'F', 'F', ',', '5',
      '0']).bind (AsmLine.moves 0)) = some [.whole 0 (.command 0x01020000FF320000)] := by decide
/-- R113: `EV HALF`, and an operand out of range. -/
theorem test_assemble_directive_and_error :
    parseLine ['E', 'V', ' ', 'H', 'A', 'L', 'F'] = some (.ev .half)
      ∧ ((parseLine ['G', 'E', 'T', 'P', 'I', 'X', ' ', '2', '5', '6']).bind (AsmLine.moves 0)) = none := by decide

/-! ### Witnesses: for each statement of Obligations.lean with hypotheses, a state and operands that meet them together -/

theorem witness_DecodedWordIsItsEncoding : decode (.command 0x01020000FF320000) = .ok (.setpix 2 0 0 255 50)
    ∧ decode (.event 1) = .ok .fullyDrained := by decide

theorem witness_AtMostOneRowMatches : rowSetcol ∈ decodeTable ∧ rowSetcol.accepts 0x0200B00000000000 = true := by decide

/-- An opcode outside the table, and a known opcode with a bit that must be 0. -/
theorem witness_WordOfNoCommandSetsRefusedOnly : ex.cfg.valid = true ∧ ex.busy 0 = false
    ∧ (∀ row ∈ decodeTable, row.accepts 0x0600000000000000 = false)
    ∧ (∀ row ∈ decodeTable, row.accepts 0x0200000000010000 = false) := by decide

/-- The premises of the first clause: a wrong number of operands, an operand of 256. -/
theorem witness_AssembledCommandDecodes : ([1, 2] : List Nat).length ≠ Mnemonic.getpix.arity
    ∧ (∃ v ∈ [0, 256], 255 < v) := by decide

theorem witness_StepRunsTheCommandAtThePort :
    let s := { ex with inputs := [.whole 0 (.command 0x1000000000000000)] }
    s.cfg.valid = true ∧ s.inputs = [.whole 0 (.command 0x1000000000000000)] ∧ s.busy 0 = false
      ∧ decodeCommand 0x1000000000000000 = .ok .prime := by decide

theorem witness_StepRunsTheDeliveredEvent_consumer :
    let s := { started with pending := some .half, inputs := [.sequencer] }
    s.cfg.valid = true ∧ s.cfg.eventSource = .consumer ∧ s.pending = some .half ∧ s.inputs = [.sequencer] := by decide
theorem witness_StepRunsTheDeliveredEvent_external :
    let s := { primedx with inputs := [.inject .full] }
    s.cfg.valid = true ∧ s.cfg.eventSource = .external ∧ s.inputs = [.inject .full] := by decide

theorem witness_PlacedWordRunsNext_command :
    ex.cfg.valid = true ∧ decodeTableWord 64 0x1100000000000000 = some .start := by decide
theorem witness_PlacedWordRunsNext_event : ex.cfg.eventSource = .consumer ∧ exx.cfg.valid = true
    ∧ exx.cfg.eventSource = .external ∧ decodeTableWord 8 1 = some .fullyDrained := by decide

/-- The smallest and the largest admitted values, and a configuration just outside. -/
theorem witness_OnlyABadConfigurationIsRefused :
    ({ cfg3 with n := 3, t := 2, code0 := 1, code1 := 2, period := 2 } : Config).valid = true
      ∧ ({ cfg3 with n := 255, t := 255, code0 := 254, code1 := 255, period := 1000 } : Config).valid = true
      ∧ ({ cfg3 with n := 256 } : Config).valid = false := by decide

/-- The last LED and the largest accepted brightness. -/
theorem witness_SetpixWritesThePixel :
    Memory.wf ex = true ∧ (2 : Byte).toNat < ex.cfg.n ∧ (100 : Byte).toNat ≤ 100 := by decide
theorem witness_SetcolWritesTheColour : Memory.wf ex = true ∧ (2 : Byte).toNat < ex.cfg.n := by decide
theorem witness_SetbrtWritesTheBrightness :
    Memory.wf ex = true ∧ (0 : Byte).toNat < ex.cfg.n ∧ (0 : Byte).toNat ≤ 100 := by decide
/-- Both clauses: all-zero input, and input `(0, 0, 1)`. -/
theorem witness_SetnormScalesTheColour : Memory.wf ex = true ∧ (2 : Byte).toNat < ex.cfg.n ∧ (100 : Byte).toNat ≤ 100
    ∧ ((0 : Byte) = 0 ∧ (0 : Byte) = 0 ∧ (0 : Byte) = 0) ∧ ¬((0 : Byte) = 0 ∧ (0 : Byte) = 0 ∧ (1 : Byte) = 0) := by decide
/-- Each clause: red, green, blue largest; all equal. -/
theorem witness_SetnormDrivesTheLargestChannelToTheTarget :
    Memory.wf ex = true ∧ (2 : Byte).toNat < ex.cfg.n ∧ (100 : Byte).toNat ≤ 100
      ∧ ((50 : Byte).toNat ≤ (100 : Byte).toNat ∧ (0 : Byte).toNat ≤ (100 : Byte).toNat)
      ∧ ((7 : Byte).toNat ≤ (7 : Byte).toNat) := by decide
theorem witness_IndexOutOfRangeWritesNothing : ex.cfg.n ≤ (3 : Byte).toNat ∧ ex.cfg.n ≤ (255 : Byte).toNat := by decide
theorem witness_BrightnessAbove100WritesNothing : 100 < (101 : Byte).toNat ∧ 100 < (255 : Byte).toNat := by decide
theorem witness_GetpixRespondsWithThePixel : (2 : Byte).toNat < ex.cfg.n := by decide
/-- The premise on the state `t` of the `GETPIX`: the state after the `SETCOL`, with a step of another agent between. -/
theorem witness_SetcolThenGetpixRoundTrip :
    let u := run1 (.setcol 2 1 2 3) started
    let t := { u with rd := 7 }
    Memory.wf started = true ∧ (2 : Byte).toNat < started.cfg.n ∧ exec (.setcol 2 1 2 3) started = .next u
      ∧ t.cfg = u.cfg ∧ t.readPixel (2 : Byte).toNat = u.readPixel (2 : Byte).toNat :=
  ⟨by decide, by decide, rfl, rfl, rfl⟩
/-- Both clauses: brightness 100 and brightness 101. -/
theorem witness_SetbrtThenGetpixRoundTrip :
    let u := run1 (.setbrt 2 100) ex
    let v := run1 (.setbrt 2 101) ex
    Memory.wf ex = true ∧ (2 : Byte).toNat < ex.cfg.n ∧ exec (.setbrt 2 100) ex = .next u
      ∧ exec (.setbrt 2 101) ex = .next v ∧ (100 : Byte).toNat ≤ 100 ∧ ¬(101 : Byte).toNat ≤ 100 :=
  ⟨by decide, by decide, rfl, rfl, by decide, by decide⟩
theorem witness_RepeatedCommandChangesNothingMore :
    (Instr.setpix 0 1 2 3 4 = .setpix 0 1 2 3 4) ∧ (Instr.prime = .prime ∧ ex.started = false) := by decide
theorem witness_PixelCommandsLeaveTheStreamAlone : Instr.isPixelCommand (.getpix 3) = true
    ∧ Instr.isPixelCommand (.setnorm 0 1 2 3 4) = true := by decide

/-- Each clause: an LED, and an index just past the last. -/
theorem witness_EncodeWritesTheFrame : Memory.wf ex = true ∧ 2 < ex.cfg.n ∧ ex.cfg.n ≤ 3 := by decide
/-- Each corner case, at both ends of a half. -/
theorem witness_EncodeCornerCases :
    let s := { ex with pix := [⟨0, 0, 0, 100⟩, ⟨255, 255, 255, 100⟩, ⟨255, 255, 255, 50⟩] }
    0 < s.cfg.n ∧ 2 < s.cfg.n ∧ halfOf (0 : Fin 48).val = .first ∧ halfOf (23 : Fin 48).val = .first
      ∧ halfOf (47 : Fin 48).val = .second ∧ ((s.readPixel 0).r = 0 ∧ (s.readPixel 0).g = 0 ∧ (s.readPixel 0).b = 0)
      ∧ s.readPixel 1 = ⟨255, 255, 255, 100⟩ ∧ s.readPixel 2 = ⟨255, 255, 255, 50⟩ := by decide

theorem witness_PrimeEncodesTwoLeds : ex.cfg.valid = true ∧ Memory.wf ex = true ∧ ex.started = false := by decide
/-- Each of the three violations. -/
theorem witness_ProtocolViolationSetsOnlyTheFaultBit : started.started = true ∧ ex.primed = false := by decide
theorem witness_StartStartsTheConsumer : primed.started = false ∧ primed.primed = true := by decide
theorem witness_RepeatedEventIsOnlyLogged :
    (run1 .halfDrained primedx).lastEv = .half ∧ primedx.lastEv = .full := by decide
/-- Both clauses: the last LED (`CURSOR = 2 = N - 1`) and one before it. -/
theorem witness_LedDataEventEncodesAndAdvances :
    ex.cfg.valid = true ∧ Memory.wf primed = true ∧ primed.phase = .ledData ∧ primed.cursor.toNat < primed.cfg.n
      ∧ primed.lastEv ≠ .half ∧ primed.cfg.n ≤ primed.cursor.toNat + 1
      ∧ ({ primed with cursor := 1 } : State).cursor.toNat + 1 < primed.cfg.n := by decide
/-- The clauses: `RCOUNT` 0, 1 and 2 with `T = 3`; at 2 the counter reaches `T`. -/
theorem witness_ResetDataEventFillsAndCounts :
    let s (k : Byte) : State :=
      { primed with cfg := { cfg3 with t := 3 }, phase := .resetData, cursor := 3, rcount := k, lastEv := .half }
    (s 0).cfg.valid = true ∧ (s 0).phase = .resetData ∧ (s 2).rcount.toNat < (s 2).cfg.t ∧ (s 0).lastEv ≠ .full
      ∧ (s 1).rcount.toNat < 2 ∧ (s 1).rcount.toNat + 1 < (s 1).cfg.t ∧ (s 2).cfg.t ≤ (s 2).rcount.toNat + 1 := by decide
/-- The clauses of the frame: each event with a byte of the half it does not select. -/
theorem witness_HandlerAlwaysCompletes : 24 ≤ (24 : Fin 48).val ∧ (23 : Fin 48).val < 24 := by decide
/-- The clauses: `RD` 22, 23 and 47, with `PENDING` empty and full. -/
theorem witness_ConsumerStepReadsAndRaises :
    let s (k : Fin 48) : State := { started with rd := k, inputs := [.consumer] }
    (s 22).cfg.valid = true ∧ (s 22).cfg.eventSource = .consumer ∧ (s 22).started = true
      ∧ (s 22).inputs = [.consumer] ∧ (s 22).rd.val ≠ 23 ∧ (s 22).rd.val ≠ 47 ∧ (s 23).rd.val = 23 ∧ (s 47).rd.val = 47
      ∧ (s 47).pending = none ∧ ({ s 47 with pending := some .half } : State).pending ≠ none := by decide
/-- Both clauses: before `START`, and in the `EXTERNAL` configuration. -/
theorem witness_ConsumerWaitsUntilEnabled : ex.cfg.valid = true ∧ ex.started = false ∧ exx.cfg.valid = true
    ∧ exx.cfg.eventSource = .external ∧ ({ ex with inputs := [.consumer] } : State).inputs = [.consumer] := by decide
theorem witness_ConsumerComesAgain : started.cfg.valid = true ∧ started.cfg.eventSource = .consumer
    ∧ started.started = true ∧ started.inputs = [] := by decide

theorem witness_StorageInvariantIsKept : ex.storageInv ∧ ∃ t, step ex = .next t :=
  ⟨⟨by decide, (fun _ h => absurd h List.not_mem_nil), List.nodup_nil⟩, _, rfl⟩
theorem witness_SequencerInvariantIsKept :
    (let s := { started with pending := some .half }; s.sequencerInv ∧ ∃ t, step s = .next t) :=
  ⟨⟨by decide, by decide, by decide⟩, _, rfl⟩
theorem witness_StreamInvariantIsKept :
    (let s := { started with rd := 24, pending := some .half }; s.streamInv ∧ ∃ t, step s = .next t) :=
  ⟨⟨fun _ => rfl, fun h => absurd (show true = false from h) (by decide),
    fun _ _ => ⟨by decide, by decide⟩⟩, _, rfl⟩
theorem witness_ResetMeetsTheInvariants : cfg3.valid = true ∧ drawOk cfg3 pix3 = true := by decide
/-- `LED_DATA` after one step from reset; `EXTERNAL` is the last clause. -/
theorem witness_ReachableStatesKeepTheRules :
    (let t := stateOr ex (core.run 1 { ex with inputs := [.whole 0 (.command 0x1000000000000000)] })
     core.run 1 { ex with inputs := [.whole 0 (.command 0x1000000000000000)] } = .next t ∧ t.phase = .ledData)
      ∧ cfg3.valid = true ∧ drawOk cfg3 pix3 = true ∧ cfg3x.eventSource = .external :=
  ⟨⟨rfl, by decide⟩, by decide, by decide, by decide⟩
/-- `RESET_DATA` reached from reset: `PRIME`, then one injected event. -/
theorem witness_ReachableStatesKeepTheRules_resetData :
    let s := { exx with inputs := [.whole 0 (.command 0x1000000000000000), .inject .half] }
    core.run 2 s = .next (stateOr exx (core.run 2 s)) ∧ (stateOr exx (core.run 2 s)).phase = .resetData :=
  ⟨rfl, by decide⟩
/-- The earliest and the latest point at which the event may be handled. -/
theorem witness_HandlerNeverWritesTheDrainingHalf :
    (let s := { started with rd := 24, pending := some .half, inputs := [.sequencer] }
     s.cfg.valid = true ∧ s.cfg.eventSource = .consumer ∧ s.streamInv ∧ s.fEventOverrun = false
      ∧ s.pending = some .half ∧ s.inputs = [.sequencer])
    ∧ (let s := { started with rd := 23, pending := some .full, lastEv := .half, inputs := [.sequencer] }
     s.streamInv ∧ s.fEventOverrun = false ∧ s.pending = some .full) :=
  ⟨⟨by decide, by decide,
    ⟨fun _ => rfl, fun h => absurd (show true = false from h) (by decide),
      fun _ _ => ⟨by decide, by decide⟩⟩, by decide, by decide, by decide⟩,
    ⟨fun _ => rfl, fun h => absurd (show true = false from h) (by decide),
      fun _ _ => ⟨by decide, by decide⟩⟩, by decide, by decide⟩
theorem witness_NoStepClearsAStickyBit :
    (let s := { started with fEventOverrun := true, fHostProtocol := true, refused := true }
     (∃ t, step s = .next t) ∧ s.primed = true ∧ s.started = true) :=
  ⟨⟨_, rfl⟩, by decide, by decide⟩
/-- Each mark set by a step: the overrun, a second `START`, a word that decodes to nothing. -/
theorem witness_EachMarkIsSetOnlyByItsCause :
    (let s := { started with rd := 47, pending := some .half, inputs := [.consumer] }
     (∃ t, step s = .next t ∧ t.fEventOverrun = true) ∧ s.fEventOverrun = false)
    ∧ (let s := { started with inputs := [.whole 0 (.command 0x1100000000000000)] }
     (∃ t, step s = .next t ∧ t.fHostProtocol = true) ∧ s.fHostProtocol = false)
    ∧ (let s := { started with inputs := [.split 0 (.command 0)] }
     (∃ t, step s = .next t ∧ t.refused = true) ∧ s.refused = false) :=
  ⟨⟨⟨_, rfl, by decide⟩, by decide⟩, ⟨⟨_, rfl, by decide⟩, by decide⟩, ⟨⟨_, rfl, by decide⟩, by decide⟩⟩
theorem witness_TracesOnlyGrow : ∃ t, step started = .next t := ⟨_, rfl⟩
/-- Each clause: the handler's step, an injected event, a `PRIME`. -/
theorem witness_OnlyPrimeAndTheHandlerWriteTheBuffer :
    (let s := { started with pending := some .half }; ∃ t, step s = .next t ∧ t.tb ≠ s.tb)
    ∧ (let s := { primedx with inputs := [.inject .half] }; ∃ t, step s = .next t ∧ t.tb ≠ s.tb)
    ∧ (let s := { ex with inputs := [.whole 0 (.command 0x1000000000000000)] }; ∃ t, step s = .next t ∧ t.tb ≠ s.tb) :=
  ⟨⟨_, rfl, by decide⟩, ⟨_, rfl, by decide⟩, ⟨_, rfl, by decide⟩⟩
theorem witness_HardwareStepsLeaveTheHostAlone :
    (let s := { started with pending := some .half }; (∃ t, step s = .next t) ∧ s.nextMove.1 = .sequencer)
    ∧ ((∃ t, step started = .next t) ∧ started.nextMove.1 = .consumer)
    ∧ (let s := { primedx with inputs := [.inject .half] }; (∃ t, step s = .next t) ∧ s.nextMove.1 = .inject .half) :=
  ⟨⟨⟨_, rfl⟩, by decide⟩, ⟨⟨_, rfl⟩, by decide⟩, ⟨⟨_, rfl⟩, by decide⟩⟩
/-- V-CON-3: the event is handled at `RD = 47`, in the last step before the next raise. -/
theorem witness_RefillDeadlinePreventsOverrun :
    (let s := { started with rd := 47, pending := some .half, inputs := [.sequencer, .consumer] }
     s.fEventOverrun = false ∧ s.refillDeadlineFor 2 = true ∧ ∃ t, core.run 2 s = .next t) :=
  ⟨by decide, by decide, _, rfl⟩
/-- V-CON-2: with no handler step before it, the next raise breaks the premise. -/
theorem test_refill_deadline_missed :
    State.refillDeadlineFor 1 { started with rd := 47, pending := some .half, inputs := [.consumer] } = false := by decide
/-- A `SETPIX` begun before `PRIME`, and one after `START`. -/
theorem witness_BootOrderKeepsTheProtocol :
    (let moves : List Turn := [.split 1 (.command 0x0100FF0000640000), .whole 0 (.command 0x1000000000000000),
      .whole 0 (.command 0x1100000000000000), .split 2 (.command 0x010100FF00640000)]
     let s := { ex with inputs := moves }
     cfg3.valid = true ∧ s.bootOrderFor .fresh 4 = true ∧ ∃ t, core.run 4 s = .next t) :=
  ⟨by decide, by decide, _, rfl⟩
/-- Both clauses: after 0 events `m = 2 < N`, after 1 event `m = 3 = N`. -/
theorem witness_EventCountsOfTheFrameCycle : ex.cfg.valid = true ∧ ex.started = false ∧ exec .prime ex = .next primed
    ∧ (0 + 2) % (ex.cfg.n + ex.cfg.t) < ex.cfg.n ∧ ex.cfg.n ≤ (1 + 2) % (ex.cfg.n + ex.cfg.t) :=
  ⟨by decide, by decide, rfl, by decide, by decide⟩
theorem witness_WireCarriesTheFrames :
    ex.cfg.valid = true ∧ ex.cfg.eventSource = .consumer ∧ Memory.wf ex = true ∧ ex.started = false ∧ ex.pending = none
      ∧ ex.tasks = [] ∧ ex.inputs = [] ∧ exec .prime ex = .next primed ∧ exec .start primed = .next started :=
  ⟨by decide, by decide, by decide, by decide, by decide, by decide, by decide, rfl, rfl⟩
theorem witness_EveryAccessOrderGivesTheWholeEffect :
    ex.cfg.valid = true ∧ ex.busy 0 = false ∧ 10 ≤ ([3, 1, 4, 1, 5, 9, 2, 6, 5, 3] : List Nat).length := by decide
/-- Sequences in progress at each clause: a write, a read, a host write, the `SETBRT` of `DECAY`, another element; and a
context with none. -/
theorem witness_SequenceStepWritesAtMostOneField :
    let u (todo : List Access) (after : After) : State :=
      { ex with tasks := [{ host := 1, led := 2, todo := todo, got := ⟨0, 0, 0, 50⟩, after := after }] }
    let t := u [.write .g 7, .read .r, .host (.start 4)] .done
    Memory.wf t = true ∧ t.taskOf 0 = none ∧ (t.taskOf 1).isSome = true ∧ 2 < t.cfg.n
      ∧ ((t.taskOf 1).bind fun k => k.todo[3 % k.todo.length]?) = some (.write .g 7)
      ∧ ((t.taskOf 1).bind fun k => k.todo[1 % k.todo.length]?) = some (.read .r)
      ∧ ((t.taskOf 1).bind fun k => k.todo[2 % k.todo.length]?) = some (.host (.start 4))
      ∧ ((u [] .decaySet).taskOf 1).map Task.after = some .decaySet
      ∧ ((u [] .fadeArm).taskOf 1).map Task.after = some .fadeArm := by decide
/-- The premise on the field at the first and the last of the four writes. -/
theorem witness_BegunSetpixIsTorn :
    Memory.wf ex = true ∧ ex.busy 0 = false ∧ (2 : Byte).toNat < ex.cfg.n ∧ (100 : Byte).toNat ≤ 100
      ∧ [Field.r, .g, .b, .br][4 % 4]? = some .r ∧ [Field.r, .g, .b, .br][7 % 4]? = some .br := by decide
/-- The clauses: an index just past the last; a finished descriptor; a fade of duration 1 at its last instant and at its start;
one of no duration. -/
theorem witness_FadeStartsAndEndsExactly :
    let u := ex.setNextFadeColor 2 ⟨1, 2, 3⟩ 10 1
    let v := ex.setNextFadeColor 2 ⟨1, 2, 3⟩ 10 0
    ex.cfg.valid = true ∧ Memory.wf ex = true ∧ Memory.wf u = true ∧ u.cfg = ex.cfg ∧ ex.cfg.n ≤ 3 ∧ 2 < ex.cfg.n
      ∧ (ex.readFade 2).finished = true ∧ (u.readFade 2).finished = false ∧ (u.readFade 2).dur ≠ 0
      ∧ (u.readFade 2).start + (u.readFade 2).dur ≤ 11 ∧ 10 < (u.readFade 2).start + (u.readFade 2).dur
      ∧ 10 ≤ (u.readFade 2).start ∧ (v.readFade 2).finished = false ∧ (v.readFade 2).dur = 0
      ∧ 0 < 1 ∧ u.readFade 2 = (ex.setNextFadeColor 2 ⟨1, 2, 3⟩ 10 1).readFade 2 ∧ 10 + 1 ≤ 11 := by decide
theorem witness_FadeInterpolationKeepsItsBounds : 0 < 1 ∧ 99 < 100 ∧ cfg3.fadeInterp = .floor := by decide
/-- The clauses: at the deadline; a dark enabled LED, one instant early; an index past the last, a disabled LED. -/
theorem witness_DecayDecrementsOnce :
    decaying.cfg.valid = true ∧ Memory.wf decaying = true ∧ 0 < decaying.cfg.n
      ∧ (decaying.readFade 0).fadeEnabled = true ∧ decaying.readField 0 .br ≠ 0 ∧ (decaying.readFade 0).nextFadeTime ≤ 5
      ∧ decaying.cfg.n ≤ 3 ∧ (decaying.readFade 1).fadeEnabled = false
      ∧ ({ decaying with pix := zero3.pix } : State).readField 0 .br = 0
      ∧ (({ decaying with pix := zero3.pix } : State).readFade 0).fadeEnabled = true
      ∧ 4 < (decaying.readFade 0).nextFadeTime := by decide
theorem witness_DecayReachesZeroInTime :
    decaying.cfg.valid = true ∧ Memory.wf decaying = true ∧ 0 < decaying.cfg.n
      ∧ (decaying.readFade 0).fadeEnabled = true ∧ decaying.readField 0 .br ≠ 0
      ∧ ((decaying.readField 0 .br).toNat - 1) * (decaying.readFade 0).decayDelay < 11
      ∧ 1 ≤ (decaying.readFade 0).decayDelay := by decide
/-- The clauses: the last LED at brightness 0 and 100; an index just past it; brightness 101. -/
theorem witness_HostFormsWriteTheFadeFields :
    ex.cfg.valid = true ∧ Memory.wf ex = true ∧ 2 < ex.cfg.n ∧ (100 : Byte).toNat ≤ 100 ∧ (100 : Byte) ≠ 0
      ∧ (0 : Byte).toNat ≤ 100 ∧ ex.cfg.n ≤ 3 ∧ 100 < (101 : Byte).toNat := by decide

end Sys2Proof.Machine.Tests
end

section
/-! Proof of the statement on refused configurations: R14 refuses what breaks R7 to R10; every other step is a move. -/

namespace Sys2Proof.Machine

theorem step_of_not_valid {s : State} (h : s.cfg.valid ≠ true) : step s = .refused .badConfiguration := by
  simp [step, h]

/-- Settles O10: `Config.valid` says R7 to R10, and every move answers a next state. -/
theorem onlyABadConfigurationIsRefused : Obligations.OnlyABadConfigurationIsRefused := by
  unfold Obligations.OnlyABadConfigurationIsRefused
  intro s
  rw [← Config.valid_iff]
  refine ⟨fun hv => ?_, step_of_not_valid⟩
  rw [step_of_valid hv]
  exact State.takeTurn_next _ _

end Sys2Proof.Machine
end

section
/-! Proof of the statement on sticky bits: keeping the configuration and every bit that is set is transitive, so it is
enough that each primitive change does it. -/

namespace Sys2Proof.Machine

/-- `t` has the configuration of `s` and every sticky bit that `s` has (00_scope.md R14, 10_state.md R39, R40, R43,
R44). -/
structure State.KeepsSticky (s t : State) : Prop where
  cfg : t.cfg = s.cfg
  fEventOverrun : s.fEventOverrun = true → t.fEventOverrun = true
  fHostProtocol : s.fHostProtocol = true → t.fHostProtocol = true
  refused : s.refused = true → t.refused = true
  primed : s.primed = true → t.primed = true
  started : s.started = true → t.started = true

theorem State.KeepsSticky.refl (s : State) : s.KeepsSticky s := ⟨rfl, id, id, id, id, id⟩

theorem State.KeepsSticky.trans {s t u : State} (h : s.KeepsSticky t) (h' : t.KeepsSticky u) : s.KeepsSticky u where
  cfg := h'.cfg.trans h.cfg
  fEventOverrun := h'.fEventOverrun ∘ h.fEventOverrun
  fHostProtocol := h'.fHostProtocol ∘ h.fHostProtocol
  refused := h'.refused ∘ h.refused
  primed := h'.primed ∘ h.primed
  started := h'.started ∘ h.started

/-- A change that leaves the configuration and the five bits as they are. -/
theorem State.KeepsSticky.of_eq {s t : State} (hc : t.cfg = s.cfg) (ho : t.fEventOverrun = s.fEventOverrun)
    (hh : t.fHostProtocol = s.fHostProtocol) (hr : t.refused = s.refused) (hp : t.primed = s.primed)
    (hs : t.started = s.started) : s.KeepsSticky t :=
  ⟨hc, ho ▸ id, hh ▸ id, hr ▸ id, hp ▸ id, hs ▸ id⟩

/-- A change of pixels alone. -/
theorem State.KeepsSticky.of_pix {s t : State} (h : t = { s with pix := t.pix }) : s.KeepsSticky t := by
  rw [h]
  exact .of_eq rfl rfl rfl rfl rfl rfl

/-- The consumer may set `F_EVENT_OVERRUN` and clears nothing. -/
theorem State.consume_keepsSticky (s : State) : s.KeepsSticky s.consume := by
  rw [State.consume_eq]
  exact ⟨rfl, by simp +contextual, id, id, id, id⟩

theorem State.takePending_keepsSticky (s : State) : s.KeepsSticky s.takePending := .of_eq rfl rfl rfl rfl rfl rfl

theorem State.handle_keepsSticky (s : State) (e : Event) : s.KeepsSticky (s.handle e) := by
  rw [State.handle_frame]
  exact .of_eq rfl rfl rfl rfl rfl rfl

theorem State.advance_keepsSticky (s : State) (h k : Nat) : s.KeepsSticky (s.advance h k) := by
  rw [State.advance_frame]
  exact .of_eq rfl rfl rfl rfl rfl rfl

/-- Every primitive change of a host keeps the sticky bits of an earlier state. -/
theorem hostKeeps_keepsSticky (s : State) : HostKeeps s.KeepsSticky where
  refuse _ h := h.trans ⟨rfl, id, id, fun _ => rfl, id, id⟩
  respond _ _ h := h.trans (.of_eq rfl rfl rfl rfl rfl rfl)
  setPixel _ _ _ h := h.trans (.of_pix (State.setPixel_frame ..))
  setColour _ _ _ h := h.trans (.of_pix (State.setColour_frame ..))
  setNorm _ _ _ _ _ _ h := h.trans (.of_pix (State.setNorm_frame ..))
  setBrightness _ _ _ h := h.trans (.of_pix (State.setBrightness_frame ..))
  writeFade _ _ _ h := h.trans (.of_eq rfl rfl rfl rfl rfl rfl)
  putTask _ _ _ h := h.trans (.of_eq rfl rfl rfl rfl rfl rfl)
  hostFault _ h := h.trans ⟨rfl, id, fun _ => rfl, id, id, id⟩
  prime t _ h := h.trans (by rw [State.primeBuffers_eq]; exact ⟨rfl, id, id, id, fun _ => rfl, id⟩)
  start _ _ _ h := h.trans ⟨rfl, id, id, id, id, fun _ => rfl⟩
  advance t k n h := h.trans (t.advance_keepsSticky k n)

theorem step_keepsSticky {s t : State} (h : step s = .next t) : s.KeepsSticky t :=
  step_keeps (hostKeeps_keepsSticky s)
    (inputs := fun _ _ hu => hu.trans (.of_eq rfl rfl rfl rfl rfl rfl))
    (sequencer := fun u e _ _ hu => (hu.trans u.takePending_keepsSticky).trans (u.takePending.handle_keepsSticky e))
    (consumer := fun u _ hu => hu.trans u.consume_keepsSticky)
    (inject := fun u e _ hu => hu.trans (u.handle_keepsSticky e))
    h (.refl s)

/-- Settles O44: every primitive change of a step keeps the configuration and the bits that are set. -/
theorem noStepClearsAStickyBit : Obligations.NoStepClearsAStickyBit := by
  unfold Obligations.NoStepClearsAStickyBit
  intro s t h
  obtain ⟨hc, ho, hh, hr, hp, hs⟩ := step_keepsSticky h
  exact ⟨hc, ho, hh, hr, hp, hs⟩

end Sys2Proof.Machine
end

section
/-! Proof of the statement on one atomic step of a sequence: what an access and what each other element of a sequence
writes. -/

namespace Sys2Proof.Machine

/-! ### Reading one field, one fade record -/

theorem State.readField_congr {s t : State} (h : t.pix = s.pix) (i : Nat) (f : Field) :
    t.readField i f = s.readField i f := by
  simp [State.readField, State.readPixel_congr h]

theorem State.readFade_congr {s t : State} (h : t.fade = s.fade) (i : Nat) : t.readFade i = s.readFade i := by
  simp [State.readFade, h]

theorem State.readField_writeField_same (s : State) {i : Nat} (f : Field) (v : Byte) (h : i < s.pix.length) :
    (s.writeField i f v).readField i f = v := by
  simp [State.readField, h]

/-- A field write leaves the other fields of its LED and every other LED alone. -/
theorem State.readField_writeField_other (s : State) {i j : Nat} {f f' : Field} (v : Byte) (h : ¬(j = i ∧ f' = f)) :
    (s.writeField i f v).readField j f' = s.readField j f' := by
  by_cases hj : j = i
  · subst hj
    by_cases hl : j < s.pix.length
    · simp [State.readField, hl, Pixel.get_put_other _ v fun hf => h ⟨rfl, hf⟩]
    · exact State.readField_congr (List.set_eq_of_length_le (Nat.le_of_not_lt hl)) j f'
  · simp [State.readField, State.readPixel_writeField_other s f v hj]

/-- `SETBRT` writes `BR` of its LED under its conditions (40_pixel_store.md R142). -/
theorem State.readField_setBrightness_br {s : State} (hl : s.pix.length = s.cfg.n) (idx br : Byte) :
    (s.setBrightness idx br).readField idx.toNat .br =
      if idx.toNat < s.cfg.n ∧ br.toNat ≤ 100 then br else s.readField idx.toNat .br := by
  have ha : s.pixelAccepted idx br = true ↔ idx.toNat < s.cfg.n ∧ br.toNat ≤ 100 := by
    simp [State.pixelAccepted, State.indexOk, brightnessOk]
  unfold State.setBrightness
  by_cases h : s.pixelAccepted idx br = true
  · rw [if_pos h, if_pos (ha.1 h)]
    exact State.readField_writeField_same s .br br (by rw [hl]; exact (ha.1 h).1)
  · rw [if_neg h, if_neg (mt ha.2 h)]

theorem State.readField_setBrightness_other (s : State) (idx br : Byte) {j : Nat} {f : Field}
    (h : ¬(j = idx.toNat ∧ f = .br)) : (s.setBrightness idx br).readField j f = s.readField j f := by
  unfold State.setBrightness
  split
  · exact State.readField_writeField_other s br h
  · rfl

theorem State.settleTask_fade (s : State) (t : Task) : (s.settleTask t).fade = s.fade := by
  unfold State.settleTask
  split <;> rfl

/-! ### An access of a sequence -/

/-- With an access left, an atomic step of a sequence makes the access that `k` selects. -/
theorem State.advance_of_access {s : State} {h k : Nat} {t : Task} {a : Access} (ht : s.taskOf h = some t)
    (ha : t.todo[k % t.todo.length]? = some a) : s.advance h k = s.makeAccess t (k % t.todo.length) := by
  have hne : t.todo ≠ [] := fun h0 => by simp [h0] at ha
  simp [State.advance, ht, hne]

/-- With none left, it does the element that follows. -/
theorem State.advance_of_todo_nil {s : State} {h : Nat} {t : Task} (ht : s.taskOf h = some t) (h0 : t.todo = [])
    (k : Nat) : s.advance h k = s.finishTask t := by
  simp [State.advance, ht, h0]

section
variable {s : State} {t : Task} {j : Nat}

theorem State.makeAccess_write {f : Field} {v : Byte} (ha : t.todo[j]? = some (.write f v)) :
    (s.makeAccess t j).pix = (s.writeField t.led f v).pix ∧ (s.makeAccess t j).fade = s.fade := by
  simp only [State.makeAccess, ha]
  exact ⟨State.settleTask_pix _ _, State.settleTask_fade _ _⟩

theorem State.makeAccess_read {f : Field} (ha : t.todo[j]? = some (.read f)) :
    (s.makeAccess t j).pix = s.pix ∧ (s.makeAccess t j).fade = s.fade := by
  simp only [State.makeAccess, ha]
  exact ⟨State.settleTask_pix _ _, State.settleTask_fade _ _⟩

theorem State.makeAccess_host {w : FadeWrite} (ha : t.todo[j]? = some (.host w)) :
    (s.makeAccess t j).pix = s.pix ∧ (s.makeAccess t j).fade = (s.putFade t.led w).fade := by
  simp only [State.makeAccess, ha]
  exact ⟨State.settleTask_pix _ _, State.settleTask_fade _ _⟩

/-- An access changes no other LED's fade record. -/
theorem State.readFade_makeAccess_other {i : Nat} (hi : i ≠ t.led) :
    (s.makeAccess t j).readFade i = s.readFade i := by
  cases ha : t.todo[j]? with
  | none => simp only [State.makeAccess, ha]
  | some a =>
    cases a with
    | read f => exact State.readFade_congr (State.makeAccess_read ha).2 i
    | write f v => exact State.readFade_congr (State.makeAccess_write ha).2 i
    | host w =>
      rw [State.readFade_congr (State.makeAccess_host ha).2]
      exact State.readFade_writeFade_other s _ hi

end

/-! ### Every other element of a sequence -/

/-- `SETBRT` does not look at the sequences in progress. -/
theorem State.setBrightness_dropTask_pix (s : State) (h : Nat) (idx br : Byte) :
    ((s.dropTask h).setBrightness idx br).pix = (s.setBrightness idx br).pix := by
  simp only [State.setBrightness, apply_ite State.pix]
  rfl

/-- The `SETBRT` that `DECAY` issues. -/
theorem State.finishTask_decaySet {s : State} {t : Task} (ha : t.after = .decaySet) :
    (s.finishTask t).pix = (s.setBrightness (ledIndex t.led) (t.got.br - 1)).pix
      ∧ (s.finishTask t).fade = s.fade := by
  simp only [State.finishTask, ha]
  exact ⟨s.setBrightness_dropTask_pix _ _ _, by simp⟩

/-- Every other element changes no pixel. -/
theorem State.finishTask_pix {s : State} {t : Task} (ha : t.after ≠ .decaySet) : (s.finishTask t).pix = s.pix := by
  unfold State.finishTask
  cases h : t.after with
  | decaySet => exact absurd h ha
  | decayTest now => dsimp only; split <;> rfl
  | _ => rfl

/-- No element changes another LED's fade record. -/
theorem State.readFade_finishTask_other {s : State} {t : Task} {i : Nat} (hi : i ≠ t.led) :
    (s.finishTask t).readFade i = s.readFade i := by
  cases h : t.after with
  | decaySet => exact State.readFade_congr (State.finishTask_decaySet h).2 i
  | decayTest now => simp only [State.finishTask, h]; split <;> rfl
  | decayAdvance => simp only [State.finishTask, h]; exact State.readFade_writeFade_other _ _ hi
  | fadeFinish => simp only [State.finishTask, h]; exact State.readFade_writeFade_other _ _ hi
  | fadeInit tgt start dur => simp only [State.finishTask, h]; exact State.readFade_writeFade_other _ _ hi
  | fadeArm => simp only [State.finishTask, h]; exact State.readFade_writeFade_other _ _ hi
  | _ => simp only [State.finishTask, h]; rfl

theorem State.readFade_advance_other {s : State} {h : Nat} {t : Task} (ht : s.taskOf h = some t) (k : Nat) {i : Nat}
    (hi : i ≠ t.led) : (s.advance h k).readFade i = s.readFade i := by
  by_cases h0 : t.todo = []
  · rw [State.advance_of_todo_nil ht h0]
    exact State.readFade_finishTask_other hi
  · have hj := Nat.mod_lt k (List.length_pos_iff.2 h0)
    rw [State.advance_of_access ht (List.getElem?_eq_getElem hj)]
    exact State.readFade_makeAccess_other hi

/-- Settles O54, by the access that `k` selects, or by the element that follows where none is left. -/
theorem sequenceStepWritesAtMostOneField : Obligations.SequenceStepWritesAtMostOneField := by
  unfold Obligations.SequenceStepWritesAtMostOneField
  intro s h k hw
  obtain ⟨hpix, -, hfade⟩ := (Memory.wf_iff s).1 hw
  refine ⟨s.advance_frame h k, fun hn => State.advance_of_not_busy (by simp [State.busy, hn]) k, fun t ht => ?_⟩
  refine ⟨fun i => State.readFade_advance_other ht k, fun f v ha => ?_, fun f ha => ?_, fun w ha => ?_,
    fun h0 ha => ?_, fun h0 ha => ?_⟩
  · rw [State.advance_of_access ht ha]
    obtain ⟨hp, hf⟩ := State.makeAccess_write (s := s) ha
    refine ⟨fun hi => ?_, fun j f' hne => ?_, hf⟩
    · rw [State.readField_congr hp, State.readField_writeField_same s f v (by omega)]
    · rw [State.readField_congr hp, State.readField_writeField_other s v hne]
  · rw [State.advance_of_access ht ha]
    exact State.makeAccess_read ha
  · rw [State.advance_of_access ht ha]
    obtain ⟨hp, hf⟩ := State.makeAccess_host (s := s) ha
    refine ⟨hp, fun hi => ?_⟩
    rw [State.readFade_congr hf]
    exact State.readFade_writeFade_same s _ (by omega)
  · rw [State.advance_of_todo_nil ht h0]
    obtain ⟨hp, hf⟩ := State.finishTask_decaySet (s := s) ha
    refine ⟨?_, fun j f' hne => ?_, hf⟩
    · rw [State.readField_congr hp, State.readField_setBrightness_br hpix]
    · rw [State.readField_congr hp, State.readField_setBrightness_other s _ _ hne]
  · rw [State.advance_of_todo_nil ht h0]
    exact State.finishTask_pix ha

end Sys2Proof.Machine
end

section
/-! Proof of the statement on sequences run alone: each action, begun and carried on, ends in the state of the action
run whole. The bound of 10 steps is that of `setNextFadeColor`: four reads, its response, `init`, three host writes,
`finished`. -/

namespace Sys2Proof.Machine

/-! ### The accesses of a sequence, then its end or what follows -/

theorem State.busy_doAccesses (s : State) (g : Pixel) (led : Nat) (as : List Access) (h : Nat) :
    (doAccesses led as (s, g)).1.busy h = s.busy h :=
  State.busy_congr (doAccesses_tasks led as (s, g)) h

section
variable {s : State} {h : Nat} (hb : s.busy h = false) {led : Nat} {as : List Access} {got : Pixel} (hne : as ≠ [])
  (hc : as.Pairwise Access.commutes)
include hb hne hc

/-- A sequence that is nothing but accesses that commute. -/
theorem State.endsIn_accesses_done :
    State.endsIn h as.length (s.putTask ⟨h, led, as, got, .done⟩) (doAccesses led as (s, got)).1 := by
  have hb' : (doAccesses led as (s, got)).1.busy h = false := by rw [State.busy_doAccesses, hb]
  have hs : (doAccesses led as (s, got)).1.settleTask ⟨h, led, [], (doAccesses led as (s, got)).2, .done⟩ =
      (doAccesses led as (s, got)).1 := State.settleTask_done (t := ⟨h, led, [], _, .done⟩) hb' rfl
  rw [← Nat.zero_add as.length]
  refine State.endsIn_accesses (t := ⟨h, led, as, got, .done⟩) rfl hb hne hc ?_
  rw [hs]
  exact State.endsIn_idle hb' 0

/-- Accesses that commute, and an element after them. -/
theorem State.endsIn_accesses_more {r : State} {n : Nat} {a : After} (ha : a ≠ .done)
    (he : State.endsIn h n
      ((doAccesses led as (s, got)).1.putTask ⟨h, led, [], (doAccesses led as (s, got)).2, a⟩) r) :
    State.endsIn h (n + as.length) (s.putTask ⟨h, led, as, got, a⟩) r := by
  rw [← State.settleTask_more _ (t := ⟨h, led, [], (doAccesses led as (s, got)).2, a⟩) ha] at he
  exact State.endsIn_accesses (t := ⟨h, led, as, got, a⟩) rfl hb hne hc he

end

section
variable {s r : State} {h led n : Nat} {ws : List (Field × Byte)} {a : After}

theorem State.endsIn_writes_done (hb : s.busy h = false) (hne : ws ≠ [])
    (hc : (writeTask h led ws .done).todo.Pairwise Access.commutes) :
    State.endsIn h ws.length (s.putTask (writeTask h led ws .done)) (s.writeFields led ws) := by
  have he := State.endsIn_accesses_done hb (led := led) (got := Pixel.zero) (by simpa [writeTask] using hne) hc
  simpa only [writeTask, doAccesses_writes, List.length_map] using he

theorem State.endsIn_writes_more (hb : s.busy h = false) (hne : ws ≠ [])
    (hc : (writeTask h led ws a).todo.Pairwise Access.commutes) (ha : a ≠ .done)
    (he : State.endsIn h n ((s.writeFields led ws).putTask (pureTask h led a)) r) :
    State.endsIn h (n + ws.length) (s.putTask (writeTask h led ws a)) r := by
  have := State.endsIn_accesses_more hb (led := led) (got := Pixel.zero) (by simpa [writeTask] using hne) hc ha
    (by simpa only [writeTask, pureTask, doAccesses_writes] using he)
  simpa only [writeTask, List.length_map] using this

theorem State.endsIn_colourWrites (hb : s.busy h = false) (c : Colour) :
    State.endsIn h 3 (s.putTask (writeTask h led (colourWrites c) .done)) (s.writeFields led (colourWrites c)) :=
  State.endsIn_writes_done hb (by simp [colourWrites]) (colourWrites_commute ..)

theorem State.endsIn_pixelWrites (hb : s.busy h = false) (p : Pixel) :
    State.endsIn h 4 (s.putTask (writeTask h led (pixelWrites p) .done)) (s.writeFields led (pixelWrites p)) :=
  State.endsIn_writes_done hb (by simp [pixelWrites]) (pixelWrites_commute ..)

/-- A `GETPIX`'s reads, then what follows with the record read. -/
theorem State.endsIn_pixelReads (hb : s.busy h = false) (ha : a ≠ .done)
    (he : State.endsIn h n (s.putTask ⟨h, led, [], s.readPixel led, a⟩) r) :
    State.endsIn h (n + 4) (s.putTask (readTask h led pixelReads a)) r :=
  State.endsIn_accesses_more hb (by simp [readTask, pixelReads]) (pixelReads_commute h led a) ha
    (by simpa only [readTask, doAccesses_reads, State.foldl_pixelReads] using he)

end

/-- An element that only moves the sequence on to `u`, then the rest of the run. -/
theorem State.endsIn_next {s r : State} {t u : Task} {h n : Nat} (hh : t.host = h) (hb : s.busy h = false)
    (ht : t.todo = []) (hu : s.finishTask t = (s.dropTask h).putTask u) (he : State.endsIn h n (s.putTask u) r) :
    State.endsIn h (n + 1) (s.putTask t) r := by
  refine State.endsIn_element hh hb ht ?_
  rwa [hu, State.dropTask_of_not_busy hb]

theorem State.busy_writeFields (s : State) (i : Nat) (ws : List (Field × Byte)) (h : Nat) :
    (s.writeFields i ws).busy h = s.busy h :=
  State.busy_congr (State.writeFields_tasks s i ws) h

/-! ### Commands -/

/-- An action that is accepted or does nothing. -/
theorem State.endsIn_ite {s u r : State} {h n : Nat} (c : Prop) [Decidable c] (hb : s.busy h = false)
    (he : c → State.endsIn h n u r) : State.endsIn h n (if c then u else s) (if c then r else s) := by
  by_cases hc : c
  · rw [if_pos hc, if_pos hc]; exact he hc
  · rw [if_neg hc, if_neg hc]; exact State.endsIn_idle hb n

theorem ledIndex_of_toNat (idx : Byte) : ledIndex idx.toNat = idx := BitVec.ofNat_toNat ..

/-- `GETPIX`: its reads and its response, or only the sentinel's. -/
theorem State.endsIn_getPixel {s : State} {h : Nat} (idx : Byte) (hn : s.cfg.n ≤ 255) (hb : s.busy h = false) :
    State.endsIn h 5 (s.putTask (readTask h idx.toNat (if s.indexOk idx then pixelReads else []) .respond))
      (s.getPixel idx) := by
  have hg : (s.getPixel idx).busy h = false := hb
  by_cases hi : s.indexOk idx = true
  · rw [if_pos hi]
    refine State.endsIn_pixelReads hb (by simp) (State.endsIn_element rfl hb rfl ?_)
    have hr : s.finishTask ⟨h, idx.toNat, [], s.readPixel idx.toNat, .respond⟩ = s.getPixel idx := by
      simp only [State.finishTask, State.dropTask_of_not_busy hb]
      rw [State.respondTo_eq_getPixel (by simpa [State.indexOk] using hi) hn rfl rfl, ledIndex_of_toNat]
    rw [hr]
    exact State.endsIn_idle hg 0
  · rw [if_neg hi]
    refine State.endsIn_mono (State.endsIn_element (n := 0) rfl hb rfl ?_) (by omega)
    have hr : s.finishTask (readTask h idx.toNat [] .respond) = s.getPixel idx := by
      simp only [State.finishTask, readTask, State.dropTask_of_not_busy hb]
      simp [State.respondTo, ledIndex_of_toNat, State.getPixel, State.pixelOrSentinel, hi]
    rw [hr]
    exact State.endsIn_idle hg 0

/-- No instruction touches a sequence in progress. -/
theorem exec_tasks {i : Instr} {s t : State} (he : exec i s = .next t) : t.tasks = s.tasks := by
  cases i with
  | setpix idx r g b br => cases he; exact State.setPixel_tasks ..
  | setcol idx r g b => cases he; exact State.setColour_tasks ..
  | setbrt idx br => cases he; exact State.setBrightness_tasks ..
  | setnorm idx r g b br => cases he; exact State.setNorm_tasks ..
  | getpix idx => cases he; rfl
  | prime =>
    simp only [exec, execPrime] at he
    split at he <;> cases he
    · rfl
    · exact State.primeBuffers_tasks s
  | start =>
    simp only [exec, execStart] at he
    split at he <;> cases he <;> rfl
  | halfDrained => cases he; exact State.handle_tasks ..
  | fullyDrained => cases he; exact State.handle_tasks ..

/-- A command that is one `step` has ended when it is begun. -/
theorem State.endsIn_exec {i : Instr} {s b t : State} {h n : Nat} (hb : s.busy h = false) (he : exec i s = .next b)
    (hr : exec i s = .next t) : State.endsIn h n b t := by
  obtain rfl : b = t := by rw [he] at hr; exact Host.Outcome.next.inj hr
  exact State.endsIn_idle (by rw [State.busy_congr (exec_tasks he), hb]) n

/-- Begun by a context that is not busy and carried on alone, every command ends as it does run whole. -/
theorem State.endsIn_beginCommand {i : Instr} {s b t : State} {h : Nat} (hn : s.cfg.n ≤ 255) (hb : s.busy h = false)
    (he : s.beginCommand h i = .next b) (hr : exec i s = .next t) : State.endsIn h 5 b t := by
  cases i with
  | setpix idx r g b br =>
    cases he; cases hr
    exact State.endsIn_ite _ hb fun _ => State.endsIn_mono (State.endsIn_pixelWrites hb _) (by omega)
  | setcol idx r g b =>
    cases he; cases hr
    exact State.endsIn_ite _ hb fun _ => State.endsIn_mono (State.endsIn_colourWrites hb _) (by omega)
  | setnorm idx r g b br =>
    cases he; cases hr
    exact State.endsIn_ite _ hb fun _ => State.endsIn_mono (State.endsIn_colourWrites hb _) (by omega)
  | getpix idx =>
    cases he; cases hr
    exact State.endsIn_getPixel idx hn hb
  | setbrt idx br => exact State.endsIn_exec (i := .setbrt idx br) hb he hr
  | prime => exact State.endsIn_exec (i := .prime) hb he hr
  | start => exact State.endsIn_exec (i := .start) hb he hr
  | halfDrained => exact State.endsIn_exec (i := .halfDrained) hb he hr
  | fullyDrained => exact State.endsIn_exec (i := .fullyDrained) hb he hr

/-! ### Host writes of a sequence -/

/-- "finished[i] <- 0" after the descriptor is written (44_host_fade_engine.md R257). -/
theorem State.finishTask_fadeArm_writeFade {s : State} {h : Nat} (hb : s.busy h = false) (i : Nat) (r : FadeRec)
    (got : Pixel) :
    (s.writeFade i r).finishTask ⟨h, i, [], got, .fadeArm⟩ = s.writeFade i { r with finished := false } := by
  have hb' : (s.writeFade i r).busy h = false := hb
  simp only [State.finishTask, State.dropTask_of_not_busy hb']
  exact s.writeFade_again i r fun r => { r with finished := false }

/-- The host writes of the fade fields are `setFadeFields`. -/
theorem doAccesses_fadeFields (s : State) (g : Pixel) (i : Nat) (f : FadeFields) :
    (doAccesses i [.host (.fadeEnabled f.fadeEnabled), .host (.decayDelay f.decayDelay),
      .host (.nextFadeTime f.nextFadeTime)] (s, g)).1 = s.setFadeFields i f := by
  show ((s.writeFade i _).putFade i _).putFade i _ = _
  rw [State.putFade_writeFade, State.putFade_writeFade]
  rfl

/-! ### Commands the host issues through an index of its own -/

section
variable {s : State} {i : Nat} (hn : s.cfg.n ≤ 255) (hi : i < s.cfg.n)
include hn hi

theorem State.indexOk_ledIndex : s.indexOk (ledIndex i) = true := by
  simp [State.indexOk, ledIndex_toNat (show i ≤ 255 by omega), hi]

theorem State.pixelAccepted_ledIndex {br : Byte} (hp : brightnessOk br = true) :
    s.pixelAccepted (ledIndex i) br = true := by
  simp [State.pixelAccepted, State.indexOk_ledIndex hn hi, hp]

theorem State.setColour_ledIndex (c : Colour) : s.setColour (ledIndex i) c = s.writeFields i (colourWrites c) := by
  rw [State.setColour, if_pos (State.indexOk_ledIndex hn hi), ledIndex_toNat (by omega)]

theorem State.setPixel_ledIndex {p : Pixel} (hp : brightnessOk p.br = true) :
    s.setPixel (ledIndex i) p = s.writeFields i (pixelWrites p) := by
  rw [State.setPixel, if_pos (State.pixelAccepted_ledIndex hn hi hp), ledIndex_toNat (by omega)]

theorem State.setNorm_ledIndex {br : Byte} (hp : brightnessOk br = true) (r g b : Byte) :
    s.setNorm (ledIndex i) r g b br = s.writeFields i (colourWrites (normColour r g b br)) := by
  rw [State.setNorm, if_pos (State.pixelAccepted_ledIndex hn hi hp), ledIndex_toNat (by omega)]

/-! ### The operations of the Fade Engine, past their first tests -/

/-- `setNextFadeColor`: its `GETPIX`, `init`, the rest of the descriptor in any order, `finished`. -/
theorem State.endsIn_setNextFadeColor {h : Nat} (hb : s.busy h = false) (tgt : Colour) (start dur : Nat) :
    State.endsIn h 10 (s.putTask (readTask h i pixelReads (.fadeRespond tgt start dur)))
      (s.setNextFadeColor i tgt start dur) := by
  have hg : (s.getPixel (ledIndex i)).busy h = false := hb
  rw [State.setNextFadeColor, if_neg (by omega)]
  refine State.endsIn_pixelReads hb (by simp) (State.endsIn_element rfl hb rfl ?_)
  simp only [State.finishTask, State.dropTask_of_not_busy hb]
  rw [State.respondTo_eq_getPixel hi hn rfl rfl]
  refine State.endsIn_element rfl hg rfl ?_
  simp only [State.finishTask, State.dropTask_of_not_busy hg]
  refine State.endsIn_accesses_more (n := 1) (s := (s.getPixel (ledIndex i)).writeFade i _) hg (by simp)
    (descriptorWrites_commute tgt start dur) (by simp) ?_
  simp only [doAccesses, State.putFade_writeFade]
  refine State.endsIn_element rfl hg rfl ?_
  rw [State.finishTask_fadeArm_writeFade hg]
  exact State.endsIn_idle (by exact hg) 0

/-- `DECAY`: its `GETPIX` and its test, and where it is due the `SETBRT` and the deadline. -/
theorem State.endsIn_decay {h now : Nat} (hb : s.busy h = false) (he : (s.readFade i).fadeEnabled = true) :
    State.endsIn h 8 (s.putTask (readTask h i pixelReads (.decayRespond now))) (s.decay i now) := by
  have hg : (s.getPixel (ledIndex i)).busy h = false := hb
  rw [State.decay, if_neg (by omega), if_neg (by simp [he])]
  refine State.endsIn_pixelReads hb (by simp) (State.endsIn_element rfl hb rfl ?_)
  simp only [State.finishTask, State.dropTask_of_not_busy hb]
  rw [State.respondTo_eq_getPixel hi hn rfl rfl]
  refine State.endsIn_element rfl hg rfl ?_
  simp only [State.finishTask, State.dropTask_of_not_busy hg]
  by_cases hd : (s.getPixel (ledIndex i)).decayDue i now (s.readField i .br) = true
  · have hset : ((s.getPixel (ledIndex i)).setBrightness (ledIndex i) ((s.readPixel i).br - 1)).busy h = false := by
      rw [State.busy_congr (State.setBrightness_tasks ..), hg]
    rw [if_pos (by exact hd), if_pos hd]
    refine State.endsIn_element rfl hg rfl ?_
    simp only [State.finishTask, State.dropTask_of_not_busy hg]
    refine State.endsIn_element rfl hset rfl ?_
    simp only [State.finishTask, State.dropTask_of_not_busy hset]
    exact State.endsIn_idle (by exact hset) 0
  · rw [if_neg (by exact hd), if_neg hd]
    exact State.endsIn_idle hg _

/-- `FADE`, at or after its end: the pin of the target and `finished`. -/
theorem State.endsIn_fadeStep_over {h now : Nat} (hb : s.busy h = false) (hf : (s.readFade i).finished = false)
    (ho : (s.readFade i).over now = true) :
    State.endsIn h 6 (s.putTask (pureTask h i (.fadeOver now))) (s.fadeStep i now) := by
  have hw : (s.writeFields i (colourWrites (s.readFade i).tgt)).busy h = false := by rw [State.busy_writeFields, hb]
  have hr : s.fadeStep i now = (s.writeFields i (colourWrites (s.readFade i).tgt)).finishFade i := by
    rw [State.fadeStep, if_neg (by omega)]
    simp [hf, ho, State.setColour_ledIndex hn hi]
  rw [hr]
  refine State.endsIn_next (u := pureTask h i (if (s.readFade i).over now then .fadePin else .fadeTime now))
    rfl hb rfl rfl ?_
  rw [if_pos ho]
  refine State.endsIn_next (u := writeTask h i (colourWrites (s.readFade i).tgt) .fadeFinish) rfl hb rfl rfl ?_
  refine State.endsIn_writes_more (n := 1) hb (by simp [colourWrites]) (colourWrites_commute ..) (by simp) ?_
  refine State.endsIn_element rfl hw rfl ?_
  simp only [State.finishTask, pureTask, State.dropTask_of_not_busy hw]
  exact State.endsIn_idle (by exact hw) 0

/-- `FADE`, before its end: `t`, the three channels, and the `SETCOL` of what they come to. -/
theorem State.endsIn_fadeStep_running {h now : Nat} (hb : s.busy h = false) (hf : (s.readFade i).finished = false)
    (ho : ¬(s.readFade i).over now = true) :
    State.endsIn h 9 (s.putTask (pureTask h i (.fadeOver now))) (s.fadeStep i now) := by
  have hr : s.fadeStep i now = s.writeFields i (colourWrites ((s.readFade i).colourAt s.cfg now)) := by
    rw [State.fadeStep, if_neg (by omega)]
    simp [hf, ho, State.setColour_ledIndex hn hi]
  rw [hr]
  refine State.endsIn_next (u := pureTask h i (if (s.readFade i).over now then .fadePin else .fadeTime now))
    rfl hb rfl rfl ?_
  rw [if_neg ho]
  refine State.endsIn_next
    (u := pureTask h i (.fadeChannel .r (now - (s.readFade i).start) (s.readFade i).dur)) rfl hb rfl rfl ?_
  refine State.endsIn_next rfl hb rfl rfl ?_
  refine State.endsIn_next rfl hb rfl rfl ?_
  refine State.endsIn_next rfl hb rfl rfl ?_
  refine State.endsIn_next
    (u := writeTask h i (colourWrites ((s.readFade i).colourAt s.cfg now)) .done) rfl hb rfl rfl ?_
  exact State.endsIn_colourWrites hb _

/-- The host form of `set`, of a pixel with no fade fields. -/
theorem State.endsIn_hostSet_none {h : Nat} {p : Pixel} (hb : s.busy h = false) (hp : brightnessOk p.br = true) :
    State.endsIn h 4 (s.putTask (writeTask h i (pixelWrites p) .done)) (s.hostSet i p none) := by
  rw [State.hostSet, if_pos (by simp [State.hostAccepted, hi, hp]), State.setPixel_ledIndex hn hi hp]
  exact State.endsIn_pixelWrites hb p

/-- The host form of `set`, of a pixel with fade fields. -/
theorem State.endsIn_hostSet_some {h : Nat} {p : Pixel} (hb : s.busy h = false) (hp : brightnessOk p.br = true)
    (f : FadeFields) :
    State.endsIn h 8 (s.putTask (writeTask h i (pixelWrites p) (.fadeFields f))) (s.hostSet i p (some f)) := by
  have hw : (s.writeFields i (pixelWrites p)).busy h = false := by rw [State.busy_writeFields, hb]
  rw [State.hostSet, if_pos (by simp [State.hostAccepted, hi, hp]), State.setPixel_ledIndex hn hi hp]
  refine State.endsIn_writes_more (n := 4) hb (by simp [pixelWrites]) (pixelWrites_commute ..) (by simp) ?_
  refine State.endsIn_next rfl hw rfl rfl ?_
  have he := State.endsIn_accesses_done (led := i) (got := Pixel.zero) hw (by simp) (fadeFieldWrites_commute f)
  rwa [doAccesses_fadeFields] at he

/-- The host form of `setColorNormalized`. -/
theorem State.endsIn_hostSetNorm {h : Nat} {r g b br : Byte} (hb : s.busy h = false) (hp : brightnessOk br = true) :
    State.endsIn h 4 (s.putTask (normTask h i r g b br s.cfg)) (s.hostSetNorm i r g b br) := by
  rw [State.hostSetNorm, if_pos (by simp [State.hostAccepted, hi, hp]), State.setNorm_ledIndex hn hi hp]
  have hc := normTask_commutes h i r g b br s.cfg
  unfold normTask at hc ⊢
  by_cases h0 : br = 0
  · simp only [if_pos h0]
    exact State.endsIn_mono (State.endsIn_colourWrites hb _) (by omega)
  · simp only [if_neg h0] at hc ⊢
    have he := State.endsIn_accesses_done (led := i) (got := Pixel.zero) hb (by simp) hc
    simp only [doAccesses_append, writeTask, doAccesses_writes] at he
    exact he

end

/-! ### Every action -/

/-- `DECAY` of an index past the last or of a disabled LED. -/
theorem State.decay_of_off {s : State} {i : Nat} (now : Nat)
    (h : s.cfg.n ≤ i ∨ (s.readFade i).fadeEnabled = false) : s.decay i now = s := by
  unfold State.decay
  rcases h with h | h <;> simp [h]

/-- `FADE` of an index past the last or of a finished descriptor. -/
theorem State.fadeStep_of_off {s : State} {i : Nat} (now : Nat)
    (h : s.cfg.n ≤ i ∨ (s.readFade i).finished = true) : s.fadeStep i now = s := by
  unfold State.fadeStep
  rcases h with h | h <;> simp [h]

theorem State.hostAccepted_iff {s : State} {i : Nat} {br : Byte} :
    s.hostAccepted i br = true ↔ i < s.cfg.n ∧ brightnessOk br = true := by
  simp [State.hostAccepted]

theorem State.hostSet_of_rejected {s : State} {i : Nat} {p : Pixel} (h : ¬s.hostAccepted i p.br = true)
    (fields : Option FadeFields) : s.hostSet i p fields = s := by
  rw [State.hostSet, if_neg h]

theorem State.hostSetNorm_of_rejected {s : State} {i : Nat} {br : Byte} (h : ¬s.hostAccepted i br = true)
    (r g b : Byte) : s.hostSetNorm i r g b br = s := by
  rw [State.hostSetNorm, if_neg h]

/-- Begun by a context that is not busy and carried on alone, every action ends as it does run whole. -/
theorem State.endsIn_beginAction {a : HostAction} {s b t : State} {h : Nat} (hn : s.cfg.n ≤ 255)
    (hb : s.busy h = false) (he : s.beginAction h a = .next b) (hr : s.runAction a = .next t) :
    State.endsIn h 10 b t := by
  cases a with
  | command w =>
    simp only [State.beginAction] at he
    simp only [State.runAction, State.runCommand] at hr
    cases hd : decodeCommand w with
    | ok i =>
      rw [hd] at he hr
      exact State.endsIn_mono (State.endsIn_beginCommand hn hb he hr) (by omega)
    | error e =>
      rw [hd] at he hr
      cases he; cases hr
      exact State.endsIn_idle (by exact hb) _
  | decay i now =>
    cases he; cases hr
    split
    · next hc =>
      rw [State.decay_of_off now (by simpa using hc)]
      exact State.endsIn_idle hb 10
    · next hc =>
      obtain ⟨hi, hf⟩ : i < s.cfg.n ∧ (s.readFade i).fadeEnabled = true := by simpa using hc
      exact State.endsIn_mono (State.endsIn_decay hn hi hb hf) (by omega)
  | fade i now =>
    cases he; cases hr
    split
    · next hc =>
      rw [State.fadeStep_of_off now (by simpa using hc)]
      exact State.endsIn_idle hb 10
    · next hc =>
      obtain ⟨hi, hf⟩ : i < s.cfg.n ∧ (s.readFade i).finished = false := by simpa using hc
      by_cases ho : (s.readFade i).over now = true
      · exact State.endsIn_mono (State.endsIn_fadeStep_over hn hi hb hf ho) (by omega)
      · exact State.endsIn_mono (State.endsIn_fadeStep_running hn hi hb hf ho) (by omega)
  | setNextFadeColor i tgt start dur =>
    cases he; cases hr
    split
    · next hc =>
      rw [State.setNextFadeColor, if_pos hc]
      exact State.endsIn_idle hb 10
    · next hc => exact State.endsIn_setNextFadeColor hn (by omega) hb tgt start dur
  | set i r g b br fields =>
    cases he; cases hr
    split
    · next hc =>
      obtain ⟨hi, hp⟩ := State.hostAccepted_iff.1 hc
      cases fields with
      | none => exact State.endsIn_mono (State.endsIn_hostSet_none hn hi hb hp) (by omega)
      | some f => exact State.endsIn_mono (State.endsIn_hostSet_some hn hi hb hp f) (by omega)
    · next hc =>
      rw [State.hostSet_of_rejected hc]
      exact State.endsIn_idle hb 10
  | setNorm i r g b br =>
    cases he; cases hr
    split
    · next hc =>
      obtain ⟨hi, hp⟩ := State.hostAccepted_iff.1 hc
      exact State.endsIn_mono (State.endsIn_hostSetNorm hn hi hb hp) (by omega)
    · next hc =>
      rw [State.hostSetNorm_of_rejected hc]
      exact State.endsIn_idle hb 10

/-- Settles O53: a sequence begun ends in the state of its action run whole, whatever access each step makes. -/
theorem everyAccessOrderGivesTheWholeEffect : Obligations.EveryAccessOrderGivesTheWholeEffect := by
  unfold Obligations.EveryAccessOrderGivesTheWholeEffect
  intro s h a order hv hb ho
  obtain ⟨-, hn, -⟩ := (Config.valid_iff s.cfg).1 hv
  obtain ⟨b, he⟩ := s.beginAction_next h a
  obtain ⟨t, hr⟩ := s.runAction_next a
  exact ⟨b, t, he, hr, State.endsIn_beginAction hn hb he hr order ho⟩

end Sys2Proof.Machine
end

section
/-! What one move can do, said once: the change of state with its cause. The statements on the sequencer, on the marks, on
the traces and on the `EXTERNAL` configuration are case analyses over it. -/

namespace Sys2Proof.Machine

/-! ### Changes of what the host reaches -/

/-- `t` differs from `s` at most in pixels, fade records, sequences in progress and responses added (20_memory.md R71). -/
structure State.HostChange (s t : State) : Prop where
  frame : t = { s with pix := t.pix, fade := t.fade, resp := t.resp, tasks := t.tasks }
  resp : s.resp <+: t.resp

namespace State.HostChange

theorem refl (s : State) : s.HostChange s := ⟨rfl, List.prefix_rfl⟩

theorem trans {s t u : State} (h : s.HostChange t) (h' : t.HostChange u) : s.HostChange u where
  frame := by rw [h'.frame, h.frame]
  resp := h.resp.trans h'.resp

theorem of_pix {s t : State} (h : t = { s with pix := t.pix }) : s.HostChange t := by
  rw [h]
  exact ⟨rfl, List.prefix_rfl⟩

theorem setPixel (s : State) (idx : Byte) (p : Pixel) : s.HostChange (s.setPixel idx p) :=
  of_pix (State.setPixel_frame ..)

theorem setColour (s : State) (idx : Byte) (c : Colour) : s.HostChange (s.setColour idx c) :=
  of_pix (State.setColour_frame ..)

theorem setNorm (s : State) (idx r g b br : Byte) : s.HostChange (s.setNorm idx r g b br) :=
  of_pix (State.setNorm_frame ..)

theorem setBrightness (s : State) (idx br : Byte) : s.HostChange (s.setBrightness idx br) :=
  of_pix (State.setBrightness_frame ..)

theorem writeField (s : State) (i : Nat) (f : Field) (v : Byte) : s.HostChange (s.writeField i f v) := of_pix rfl

theorem writeFade (s : State) (i : Nat) (r : FadeRec) : s.HostChange (s.writeFade i r) := ⟨rfl, List.prefix_rfl⟩

theorem respond (s : State) (w : CommandWord) : s.HostChange (s.respond w) := ⟨rfl, List.prefix_append _ _⟩

theorem putTask (s : State) (t : Task) : s.HostChange (s.putTask t) := ⟨rfl, List.prefix_rfl⟩

theorem dropTask (s : State) (h : Nat) : s.HostChange (s.dropTask h) := ⟨rfl, List.prefix_rfl⟩

theorem settleTask (s : State) (t : Task) : s.HostChange (s.settleTask t) := by
  unfold State.settleTask
  split
  · exact dropTask s t.host
  · exact putTask s t

theorem makeAccess (s : State) (t : Task) (j : Nat) : s.HostChange (s.makeAccess t j) := by
  unfold State.makeAccess
  split
  · exact refl s
  · exact (writeField ..).trans (settleTask ..)
  · exact settleTask ..
  · exact (writeFade ..).trans (settleTask ..)

theorem finishTask (s : State) (t : Task) : s.HostChange (s.finishTask t) := by
  refine (dropTask s t.host).trans ?_
  unfold State.finishTask
  generalize s.dropTask t.host = u
  cases t.after with
  | done => exact refl u
  | respond => exact respond ..
  | decayRespond now => exact (respond ..).trans (putTask ..)
  | decayTest now =>
    dsimp only
    split
    · exact putTask ..
    · exact refl u
  | decaySet => exact (setBrightness ..).trans (putTask ..)
  | decayAdvance => exact writeFade ..
  | fadeFinish => exact writeFade ..
  | fadeRespond tgt start dur => exact (respond ..).trans (putTask ..)
  | fadeInit tgt start dur => exact (writeFade ..).trans (putTask ..)
  | fadeArm => exact writeFade ..
  | fadeOver | fadePin | fadeTime | fadeChannel | fadeIssue | fadeFields => exact putTask ..

theorem advance (s : State) (h k : Nat) : s.HostChange (s.advance h k) := by
  unfold State.advance
  split
  · exact refl s
  · split
    · exact finishTask ..
    · exact makeAccess ..

theorem decay (s : State) (i now : Nat) : s.HostChange (s.decay i now) := by
  unfold State.decay
  split
  · exact refl s
  · split
    · exact refl s
    · dsimp only
      split
      · exact (respond ..).trans ((setBrightness ..).trans (writeFade ..))
      · exact respond ..

theorem fadeStep (s : State) (i now : Nat) : s.HostChange (s.fadeStep i now) := by
  unfold State.fadeStep
  split
  · exact refl s
  · dsimp only
    split
    · exact refl s
    · split
      · exact (setColour ..).trans (writeFade ..)
      · exact setColour ..

theorem setNextFadeColor (s : State) (i : Nat) (tgt : Colour) (start dur : Nat) :
    s.HostChange (s.setNextFadeColor i tgt start dur) := by
  unfold State.setNextFadeColor
  split
  · exact refl s
  · exact (respond ..).trans (writeFade ..)

theorem hostSet (s : State) (i : Nat) (p : Pixel) (fields : Option FadeFields) :
    s.HostChange (s.hostSet i p fields) := by
  unfold State.hostSet
  split
  · cases fields with
    | none => exact setPixel ..
    | some f => exact (setPixel ..).trans (writeFade ..)
  · exact refl s

theorem hostSetNorm (s : State) (i : Nat) (r g b br : Byte) : s.HostChange (s.hostSetNorm i r g b br) := by
  unfold State.hostSetNorm
  split
  · dsimp only
    split
    · exact setNorm ..
    · exact (setNorm ..).trans (writeFade ..)
  · exact refl s

end State.HostChange

/-! ### Moves by their effect -/

theorem State.consumerEnabled_iff {s : State} :
    s.consumerEnabled = true ↔ s.started = true ∧ s.cfg.eventSource = .consumer := by
  simp [State.consumerEnabled]

/-- What the move `m` can make of `s`, by its cause. A move that passes is a host change of nothing. -/
inductive State.Effect (s : State) (m : Turn) : State → Prop
  /-- Host commands other than `PRIME` and `START`, Fade Engine operations, elements of sequences, passing. -/
  | host {t : State} : s.HostChange t → s.Effect m t
  /-- A word that decodes to no command (30_encoding.md R108). -/
  | refuse {h : Nat} {w : CommandWord} {e : DecodeError} : decodeCommand w = .error e →
      (m = .whole h (.command w) ∨ m = .split h (.command w)) → s.Effect m s.refuse
  /-- `PRIME` or `START` out of order (60_exceptions.md R284). -/
  | protocolFault : (m.isCommand .prime = true ∧ s.started = true)
      ∨ (m.isCommand .start = true ∧ (s.started = true ∨ s.primed = false)) →
      s.Effect m (s.raiseFault .hostProtocol)
  | prime : m.isCommand .prime = true → s.started = false → s.Effect m s.primeBuffers
  | start : m.isCommand .start = true → s.started = false → s.primed = true →
      s.Effect m { s with started := true, rd := 0 }
  | sequencer {e : Event} : m = .sequencer → s.cfg.eventSource = .consumer → s.pending = some e →
      s.Effect m (s.takePending.handle e)
  | consumer : m = .consumer → s.consumerEnabled = true → s.Effect m s.consume
  | inject {e : Event} : m = .inject e → s.cfg.eventSource = .external → s.Effect m (s.handle e)

theorem State.Effect.pass (s : State) (m : Turn) : s.Effect m s := .host (.refl s)

section
variable {s t : State} {m : Turn} {i : Instr}

/-- A command run whole. -/
theorem exec_effect (hm : m.isCommand i = true) (hi : i ≠ .halfDrained ∧ i ≠ .fullyDrained)
    (he : exec i s = .next t) : s.Effect m t := by
  cases i with
  | setpix => cases he; exact .host (.setPixel ..)
  | setcol => cases he; exact .host (.setColour ..)
  | setbrt => cases he; exact .host (.setBrightness ..)
  | setnorm => cases he; exact .host (.setNorm ..)
  | getpix => cases he; exact .host (.respond ..)
  | prime =>
    simp only [exec, execPrime] at he
    split at he <;> cases he
    · next hs => exact .protocolFault (.inl ⟨hm, hs⟩)
    · next hs => exact .prime hm (by simpa using hs)
  | start =>
    simp only [exec, execStart] at he
    split at he <;> cases he
    · next hs => exact .protocolFault (.inr ⟨hm, by simpa using hs⟩)
    · next hs =>
      obtain ⟨hs, hp⟩ : s.started = false ∧ s.primed = true := by simpa using hs
      exact .start hm hs hp
  | halfDrained => exact absurd rfl hi.1
  | fullyDrained => exact absurd rfl hi.2

/-- A command begun. -/
theorem State.beginCommand_effect {h : Nat} (hm : m.isCommand i = true)
    (hi : i ≠ .halfDrained ∧ i ≠ .fullyDrained) (he : s.beginCommand h i = .next t) : s.Effect m t := by
  cases i with
  | setpix | setcol | setnorm =>
    cases he
    split
    · exact .host (.putTask ..)
    · exact .pass s m
  | getpix => cases he; exact .host (.putTask ..)
  | setbrt | prime | start => exact exec_effect hm hi he
  | halfDrained => exact absurd rfl hi.1
  | fullyDrained => exact absurd rfl hi.2

theorem State.runAction_effect {h : Nat} {a : HostAction} (he : s.runAction a = .next t) :
    s.Effect (.whole h a) t := by
  cases a with
  | command w =>
    simp only [State.runAction, State.runCommand] at he
    split at he
    · next hd => exact exec_effect (by simp [Turn.isCommand, hd, Except.toOption]) (decodeCommand_not_event hd) he
    · next hd => cases he; exact .refuse hd (.inl rfl)
  | decay => cases he; exact .host (.decay ..)
  | fade => cases he; exact .host (.fadeStep ..)
  | setNextFadeColor => cases he; exact .host (.setNextFadeColor ..)
  | set => cases he; exact .host (.hostSet ..)
  | setNorm => cases he; exact .host (.hostSetNorm ..)

theorem State.beginAction_effect {h : Nat} {a : HostAction} (he : s.beginAction h a = .next t) :
    s.Effect (.split h a) t := by
  cases a with
  | command w =>
    simp only [State.beginAction] at he
    split at he
    · next hd =>
      exact State.beginCommand_effect (by simp [Turn.isCommand, hd, Except.toOption]) (decodeCommand_not_event hd) he
    · next hd => cases he; exact .refuse hd (.inr rfl)
  | decay | fade | setNextFadeColor =>
    cases he
    split
    · exact .pass s _
    · exact .host (.putTask ..)
  | set | setNorm =>
    cases he
    split
    · exact .host (.putTask ..)
    · exact .pass s _

theorem State.takeTurn_effect (h : s.takeTurn m = .next t) : s.Effect m t := by
  cases m with
  | whole hst a =>
    simp only [State.takeTurn] at h
    split at h
    · cases h; exact .pass s _
    · exact State.runAction_effect h
  | split hst a =>
    simp only [State.takeTurn] at h
    split at h
    · cases h; exact .pass s _
    · exact State.beginAction_effect h
  | advance hst k => cases h; exact .host (.advance ..)
  | sequencer =>
    simp only [State.takeTurn] at h
    rcases s.sequencerStep_cases with ⟨e, hc, hp, he⟩ | he <;> cases he.symm.trans h
    · exact .sequencer rfl hc hp
    · exact .pass s _
  | consumer =>
    cases h
    unfold State.consumerStep
    split
    · exact .consumer rfl ‹_›
    · exact .pass s _
  | inject e =>
    simp only [State.takeTurn] at h
    rcases s.injectStep_cases e with ⟨hc, he⟩ | he <;> cases he.symm.trans h
    · exact .inject rfl hc
    · exact .pass s _

end

/-- A step is the effect of its move on a state that differs in the moves in store alone. -/
theorem step_effect {s t : State} (h : step s = .next t) :
    s.cfg.valid = true ∧ ∃ l, ({ s with inputs := l } : State).Effect s.nextMove.1 t := by
  obtain ⟨hv, h⟩ := step_cases h
  rw [State.nextMove_frame] at h
  exact ⟨hv, _, State.takeTurn_effect h⟩

end Sys2Proof.Machine
end

section
/-! Proof of the statements on the storage invariant: a form of storage and of sequences that each primitive change
keeps. -/

namespace Sys2Proof.Machine

namespace State.storageInv
variable {s t : State}

/-- A change that leaves the sequences in progress alone and keeps the form of the storage. -/
theorem of_wf (h : s.storageInv) (hw : Memory.wf s = true → Memory.wf t = true) (ht : t.tasks = s.tasks) :
    t.storageInv := by
  obtain ⟨hs, hok, hd⟩ := h
  exact ⟨hw hs, ht ▸ hok, ht ▸ hd⟩

/-- A change of anything but the storage and the sequences in progress. -/
theorem congr (h : s.storageInv) (hc : t.cfg = s.cfg) (hp : t.pix = s.pix) (hf : t.fade = s.fade)
    (ht : t.tasks = s.tasks) : t.storageInv :=
  h.of_wf (fun hw => (Memory.wf_congr hc hp hf).trans hw) ht

theorem todo_ok (h : s.storageInv) {u : Task} (hu : u ∈ s.tasks) : u.todo.all Access.ok = true := by
  obtain ⟨-, hok, -⟩ := h
  exact hok u hu

theorem setBrightness (h : s.storageInv) (idx br : Byte) : (s.setBrightness idx br).storageInv :=
  h.of_wf (fun hw => Memory.wf_setBrightness hw idx br) (by simp)

theorem writeFade (h : s.storageInv) (i : Nat) (r : FadeRec) : (s.writeFade i r).storageInv :=
  h.of_wf (fun hw => Memory.wf_writeFade hw i r) rfl

theorem respond (h : s.storageInv) (w : CommandWord) : (s.respond w).storageInv := h.congr rfl rfl rfl rfl

theorem handle (h : s.storageInv) (e : Event) : (s.handle e).storageInv := h.congr (by simp) (by simp) (by simp) (by simp)

theorem dropTask (h : s.storageInv) (hst : Nat) : (s.dropTask hst).storageInv := by
  obtain ⟨hw, hok, hd⟩ := h
  exact ⟨hw, fun u hu => hok u (List.mem_of_mem_filter hu), hd.sublist (List.filter_sublist.map Task.host)⟩

/-- A sequence put in progress replaces what its host context had, so no context has two. -/
theorem putTask (h : s.storageInv) {u : Task} (hu : u.todo.all Access.ok = true) : (s.putTask u).storageInv := by
  obtain ⟨hw, hok, hd⟩ := h.dropTask u.host
  refine ⟨hw, List.forall_mem_cons.2 ⟨hu, hok⟩, List.nodup_cons.2 ⟨?_, hd⟩⟩
  simp

theorem settleTask (h : s.storageInv) {u : Task} (hu : u.todo.all Access.ok = true) : (s.settleTask u).storageInv := by
  unfold State.settleTask
  split
  · exact h.dropTask u.host
  · exact h.putTask hu

/-- An access of a sequence that keeps the form keeps it, and so do the accesses left. -/
theorem makeAccess (h : s.storageInv) {u : Task} (hu : u.todo.all Access.ok = true) (j : Nat) :
    (s.makeAccess u j).storageInv := by
  have hrest : (u.todo.eraseIdx j).all Access.ok = true :=
    List.all_eq_true.2 fun a ha => List.all_eq_true.1 hu a (List.mem_of_mem_eraseIdx ha)
  unfold State.makeAccess
  split
  · exact h
  · next f v ha =>
    have hok : (Access.write f v).ok = true := List.all_eq_true.1 hu _ (List.mem_of_getElem? ha)
    have hv : f = .br → v.toNat ≤ maxBrightness := by rintro rfl; simpa [Access.ok, brightnessOk] using hok
    exact (h.of_wf (t := s.writeField u.led f v) (fun hw => Memory.wf_writeField hw _ f v hv) rfl).settleTask hrest
  · exact h.settleTask hrest
  · exact (h.writeFade _ _).settleTask hrest

/-- Every other element leaves accesses that keep the form. -/
theorem finishTask (h : s.storageInv) {u : Task} (hu : u.todo.all Access.ok = true) : (s.finishTask u).storageInv := by
  have hd := h.dropTask u.host
  unfold State.finishTask
  cases u.after with
  | done => exact hd
  | respond => exact hd.respond _
  | decayRespond now => exact (hd.respond _).putTask hu
  | decayTest now =>
    dsimp only
    split
    · exact hd.putTask hu
    · exact hd
  | decaySet => exact (hd.setBrightness _ _).putTask hu
  | decayAdvance => exact hd.writeFade _ _
  | fadeOver now => exact hd.putTask hu
  | fadePin => exact hd.putTask (colourWrites_ok _ _ _ _)
  | fadeFinish => exact hd.writeFade _ _
  | fadeTime now => exact hd.putTask hu
  | fadeChannel c num den => exact hd.putTask hu
  | fadeIssue => exact hd.putTask (colourWrites_ok _ _ _ _)
  | fadeRespond tgt start dur => exact (hd.respond _).putTask hu
  | fadeInit tgt start dur => exact (hd.writeFade _ _).putTask rfl
  | fadeArm => exact hd.writeFade _ _
  | fadeFields f => exact hd.putTask rfl

theorem advance (h : s.storageInv) (hst k : Nat) : (s.advance hst k).storageInv := by
  unfold State.advance
  split
  · exact h
  · next u ht =>
    have hu := h.todo_ok (List.mem_of_find?_eq_some ht)
    split
    · exact h.finishTask hu
    · exact h.makeAccess hu _

end State.storageInv

theorem hostKeeps_storageInv : HostKeeps State.storageInv where
  refuse _ h := h.congr rfl rfl rfl rfl
  respond _ w h := h.respond w
  setPixel _ idx p h := h.of_wf (fun hw => Memory.wf_setPixel hw idx p) (by simp)
  setColour _ idx c h := h.of_wf (fun hw => Memory.wf_setColour hw idx c) (by simp)
  setNorm _ idx r g b br h := h.of_wf (fun hw => Memory.wf_setNorm hw idx r g b br) (by simp)
  setBrightness _ idx br h := h.setBrightness idx br
  writeFade _ i r h := h.writeFade i r
  putTask _ _ hu h := h.putTask hu
  hostFault _ h := h.congr rfl rfl rfl rfl
  prime _ _ h := h.congr (by simp) (by simp) (by simp) (by simp)
  start _ _ _ h := h.congr rfl rfl rfl rfl
  advance _ hst k h := h.advance hst k

/-- Settles O36: every primitive change of a step keeps the storage and the sequences in their form. -/
theorem storageInvariantIsKept : Obligations.StorageInvariantIsKept := by
  unfold Obligations.StorageInvariantIsKept
  intro s t h hstep
  exact step_keeps hostKeeps_storageInv
    (inputs := fun _ _ h => h.congr rfl rfl rfl rfl)
    (sequencer := fun u e _ _ h => State.storageInv.handle (s := u.takePending) (h.congr rfl rfl rfl rfl) e)
    (consumer := fun _ _ h => h.congr (by simp) (by simp) (by simp) (by simp))
    (inject := fun _ e _ h => h.handle e)
    hstep h

end Sys2Proof.Machine
end

section
/-! Proof of the statement on the sequencer invariant: only `PRIME` and the handler write `PHASE`, `CURSOR` and `RCOUNT`,
and the two kinds of accepted event test the counter they advance in the same step. -/

namespace Sys2Proof.Machine

/-- A change of anything but the configuration, `PHASE`, `CURSOR` and `RCOUNT`. -/
theorem State.sequencerInv.congr {s t : State} (h : s.sequencerInv) (hc : t.cfg = s.cfg) (hp : t.phase = s.phase)
    (hcu : t.cursor = s.cursor) (hr : t.rcount = s.rcount) : t.sequencerInv := by
  unfold State.sequencerInv
  rw [hc, hp, hcu, hr]
  exact h

theorem State.HostChange.sequencerInv {s t : State} (h : s.HostChange t) (hi : s.sequencerInv) : t.sequencerInv := by
  rw [h.frame]
  exact hi

theorem State.sequencerInv.of_ledData {s : State} (hp : s.phase = .ledData) (hc : s.cursor.toNat < s.cfg.n)
    (hr : s.rcount.toNat ≤ s.cfg.t) : s.sequencerInv :=
  ⟨fun _ => hc, by simp [hp], hr⟩

theorem State.sequencerInv.of_resetData {s : State} (hp : s.phase = .resetData) (hc : s.cursor.toNat = s.cfg.n)
    (hr : s.rcount.toNat < s.cfg.t) : s.sequencerInv :=
  ⟨by simp [hp], fun _ => ⟨hc, hr⟩, hr.le⟩

theorem State.sequencerInv.primeBuffers {s : State} (hv : s.cfg.valid = true) : s.primeBuffers.sequencerInv := by
  obtain ⟨hn, -⟩ := (Config.valid_iff s.cfg).1 hv
  rw [State.primeBuffers_eq]
  exact .of_ledData rfl (show 2 < s.cfg.n by omega) (Nat.zero_le _)

/-- An accepted event in `LED_DATA`: `CURSOR` advances, and at `N` the phase ends with `RCOUNT = 0` (R47). -/
theorem State.sequencerInv.ledEvent {s : State} (h : s.sequencerInv) (hv : s.cfg.valid = true) (hp : s.phase = .ledData)
    (hf : Half) : (s.ledEvent hf).sequencerInv := by
  obtain ⟨-, hn, ht, -⟩ := (Config.valid_iff s.cfg).1 hv
  obtain ⟨hled, -, hr⟩ := h
  have hcur := hled hp
  have hsucc : (s.cursor + 1).toNat = s.cursor.toNat + 1 := succ_toNat (by omega)
  rw [State.ledEvent_eq]
  by_cases hend : s.cfg.n ≤ (s.cursor + 1).toNat
  · simp only [if_pos hend]
    exact .of_resetData rfl (show (s.cursor + 1).toNat = s.cfg.n by omega) (show 0 < s.cfg.t by omega)
  · simp only [if_neg hend]
    exact .of_ledData hp (Nat.lt_of_not_le hend) hr

/-- An accepted event in `RESET_DATA`: `RCOUNT` advances, and at `T` the phase ends with `CURSOR = 0` (R48). -/
theorem State.sequencerInv.resetEvent {s : State} (h : s.sequencerInv) (hv : s.cfg.valid = true)
    (hp : s.phase = .resetData) (hf : Half) : (s.resetEvent hf).sequencerInv := by
  obtain ⟨hn, -, -, ht, -⟩ := (Config.valid_iff s.cfg).1 hv
  obtain ⟨-, hreset, -⟩ := h
  obtain ⟨hcur, hrc⟩ := hreset hp
  have hsucc : (s.rcount + 1).toNat = s.rcount.toNat + 1 := succ_toNat (by omega)
  rw [State.resetEvent_eq]
  by_cases hend : s.cfg.t ≤ (s.rcount + 1).toNat
  · simp only [if_pos hend]
    exact .of_ledData rfl (show 0 < s.cfg.n by omega) (show (s.rcount + 1).toNat ≤ s.cfg.t by omega)
  · simp only [if_neg hend]
    exact .of_resetData hp hcur (Nat.lt_of_not_le hend)

theorem State.sequencerInv.handle {s : State} (h : s.sequencerInv) (hv : s.cfg.valid = true) (e : Event) :
    (s.handle e).sequencerInv := by
  have h' : ({ s with lastEv := e } : State).sequencerInv := h
  rcases s.handle_cases e with ⟨-, he⟩ | ⟨-, hp, he⟩ | ⟨-, hp, he⟩ <;> rw [he]
  · exact h
  · exact h'.ledEvent hv hp _
  · exact h'.resetEvent hv hp _

theorem State.Effect.sequencerInv {s t : State} {m : Turn} (he : s.Effect m t) (hv : s.cfg.valid = true)
    (h : s.sequencerInv) : t.sequencerInv := by
  cases he with
  | host hc => exact hc.sequencerInv h
  | refuse => exact h
  | protocolFault => exact h
  | prime => exact .primeBuffers hv
  | start => exact h
  | sequencer => exact State.sequencerInv.handle (s := s.takePending) h hv _
  | consumer => exact h.congr (by simp) (by simp) (by simp) (by simp)
  | inject => exact h.handle hv _

/-- Settles O37: every effect of a move keeps the sequencer invariant in an admitted configuration. -/
theorem sequencerInvariantIsKept : Obligations.SequencerInvariantIsKept := by
  unfold Obligations.SequencerInvariantIsKept
  intro s t h hstep
  obtain ⟨hv, l, he⟩ := step_effect hstep
  exact he.sequencerInv hv h

end Sys2Proof.Machine
end

section
/-! Proof of the statements on the reset state and on the states reachable from it: each invariant holds at reset, every
step keeps it, so it holds of every run. -/

namespace Sys2Proof.Machine

section
variable (cfg : Config) (pix : List Pixel) (tb : Vector Byte 48)

theorem State.storageInv_resetWith (hd : drawOk cfg pix = true) : (State.resetWith cfg pix tb).storageInv :=
  ⟨Memory.wf_resetWith cfg pix tb hd, List.forall_mem_nil _, List.nodup_nil⟩

theorem State.sequencerInv_resetWith (hv : cfg.valid = true) : (State.resetWith cfg pix tb).sequencerInv := by
  obtain ⟨hn, -⟩ := (Config.valid_iff cfg).1 hv
  exact .of_ledData rfl (show 0 < cfg.n by omega) (Nat.zero_le _)

theorem State.consumerInv_resetWith : (State.resetWith cfg pix tb).consumerInv :=
  ⟨nofun, fun _ => ⟨rfl, rfl, rfl, rfl, rfl⟩, nofun⟩

theorem State.externalInv_resetWith : (State.resetWith cfg pix tb).externalInv := ⟨nofun, rfl, rfl, rfl⟩

theorem State.streamInv_resetWith : (State.resetWith cfg pix tb).streamInv := by
  unfold State.streamInv
  split
  · exact State.consumerInv_resetWith cfg pix tb
  · exact State.externalInv_resetWith cfg pix tb

end

/-- Settles O39, one invariant at a time. -/
theorem resetMeetsTheInvariants : Obligations.ResetMeetsTheInvariants := by
  unfold Obligations.ResetMeetsTheInvariants
  intro cfg pix tb hv hd
  exact ⟨State.storageInv_resetWith cfg pix tb hd, State.sequencerInv_resetWith cfg pix tb hv,
    State.streamInv_resetWith cfg pix tb⟩

/-- In the `EXTERNAL` configuration neither the consumer nor `RAISE` runs (43_transfer_consumer.md R237). -/
theorem State.Effect.externalInv {s t : State} {m : Turn} (he : s.Effect m t) (hx : s.cfg.eventSource = .external)
    (h : s.externalInv) : t.externalInv := by
  cases he with
  | host hc => rw [hc.frame]; exact h
  | refuse => exact h
  | protocolFault => exact h
  | prime =>
    obtain ⟨-, hrest⟩ := h
    rw [State.primeBuffers_eq]
    exact ⟨fun _ => rfl, hrest⟩
  | start _ _ hp =>
    obtain ⟨-, hrest⟩ := h
    exact ⟨fun _ => hp, hrest⟩
  | sequencer _ hc => simp [hx] at hc
  | consumer _ hc => simp [State.consumerEnabled, hx] at hc
  | inject => rw [State.handle_frame]; exact h

theorem step_keeps_externalInv {s t : State} (h : s.cfg.eventSource = .external → s.externalInv)
    (hstep : step s = .next t) : t.cfg.eventSource = .external → t.externalInv := by
  obtain ⟨-, l, he⟩ := step_effect hstep
  intro hx
  rw [(step_keepsSticky hstep).cfg] at hx
  exact he.externalInv hx (h hx)

/-- Settles O40: the invariants hold at reset, whatever moves are in store, and every step keeps them. -/
theorem reachableStatesKeepTheRules : Obligations.ReachableStatesKeepTheRules := by
  unfold Obligations.ReachableStatesKeepTheRules
  intro cfg pix tb moves k t hv hd hrun
  have hcfg : t.cfg = cfg :=
    core_run_keeps (P := (·.cfg = cfg)) (fun _ _ h hs => (step_keepsSticky hs).cfg.trans h) hrun rfl
  obtain ⟨hw, -, -⟩ := core_run_keeps storageInvariantIsKept hrun (State.storageInv_resetWith cfg pix tb hd)
  obtain ⟨hled, hreset, -⟩ :=
    core_run_keeps sequencerInvariantIsKept hrun (State.sequencerInv_resetWith cfg pix tb hv)
  have hext := core_run_keeps (P := fun u => u.cfg.eventSource = .external → u.externalInv)
    (fun _ _ => step_keeps_externalInv) hrun (fun _ => State.externalInv_resetWith cfg pix tb)
  rw [hcfg] at hled hreset hext
  refine ⟨Memory.wf_readPixel hw, hled, hreset, fun hx => ?_⟩
  obtain ⟨-, hrest⟩ := hext hx
  exact hrest

end Sys2Proof.Machine
end

section
/-! Proof of the statement on the fault bits and `REFUSED`: the effects of a move that set each of them. -/

namespace Sys2Proof.Machine

theorem drainPoint_isSome (rd : Fin 48) : (drainPoint rd).isSome = true ↔ rd.val = 23 ∨ rd.val = 47 := by
  unfold drainPoint
  split
  · simp [*]
  · split <;> simp [*]

section
variable {s t : State} {m : Turn}

/-- `F_EVENT_OVERRUN` is set by the consumer alone, at a drain point with `PENDING` full (60_exceptions.md R283). -/
theorem State.Effect.cause_of_overrun (he : s.Effect m t) (h0 : s.fEventOverrun = false) (h1 : t.fEventOverrun = true) :
    m = .consumer ∧ s.consumerEnabled = true ∧ (drainPoint s.rd).isSome = true ∧ s.pending.isSome = true := by
  cases he with
  | host hc => rw [hc.frame] at h1; simp [h0] at h1
  | consumer hm hc =>
    rw [State.consume_eq] at h1
    exact ⟨hm, hc, by simpa [h0] using h1⟩
  | refuse | protocolFault | prime | start | sequencer | inject => simp [h0] at h1

/-- `F_HOST_PROTOCOL` is set by `PRIME` or `START` out of order alone (60_exceptions.md R284). -/
theorem State.Effect.cause_of_hostProtocol (he : s.Effect m t) (h0 : s.fHostProtocol = false)
    (h1 : t.fHostProtocol = true) :
    (m.isCommand .prime = true ∧ s.started = true)
      ∨ (m.isCommand .start = true ∧ (s.started = true ∨ s.primed = false)) := by
  cases he with
  | host hc => rw [hc.frame] at h1; simp [h0] at h1
  | protocolFault hc => exact hc
  | refuse | prime | start | sequencer | consumer | inject => simp [h0] at h1

/-- `REFUSED` is set by a word that decodes to no command alone (10_state.md R44). -/
theorem State.Effect.cause_of_refused (he : s.Effect m t) (h0 : s.refused = false) (h1 : t.refused = true) :
    ∃ h w e, decodeCommand w = .error e ∧ (m = .whole h (.command w) ∨ m = .split h (.command w)) := by
  cases he with
  | host hc => rw [hc.frame] at h1; simp [h0] at h1
  | refuse hd hm => exact ⟨_, _, _, hd, hm⟩
  | protocolFault | prime | start | sequencer | consumer | inject => simp [h0] at h1

end

/-- Settles O45: the cause of each mark; a consumer step brings no command, so no step sets both fault bits. -/
theorem eachMarkIsSetOnlyByItsCause : Obligations.EachMarkIsSetOnlyByItsCause := by
  unfold Obligations.EachMarkIsSetOnlyByItsCause
  intro s t hstep
  obtain ⟨-, l, he⟩ := step_effect hstep
  refine ⟨fun h0 h1 => ?_, he.cause_of_hostProtocol, he.cause_of_refused, ?_⟩
  · obtain ⟨hm, hc, hd, hp⟩ := he.cause_of_overrun h0 h1
    obtain ⟨hs, hsrc⟩ := State.consumerEnabled_iff.1 hc
    exact ⟨hm, hs, hsrc, (drainPoint_isSome s.rd).1 hd, Option.isSome_iff_ne_none.1 hp⟩
  · rintro ⟨ho0, ho1, hh0, hh1⟩
    obtain ⟨hm, -⟩ := he.cause_of_overrun ho0 ho1
    have hcause := he.cause_of_hostProtocol hh0 hh1
    simp [hm, Turn.isCommand] at hcause

end Sys2Proof.Machine
end

section
/-! Proof of the statement on the traces: which effect of a move adds to `OBS`, `RESP` and `WIRE`. -/

namespace Sys2Proof.Machine

/-- The handler adds to `OBS` at most one record (42_streaming_sequencer.md R193). -/
theorem State.obs_prefix_handle (s : State) (e : Event) : s.obs <+: (s.handle e).obs := by
  rcases s.handle_cases e with ⟨-, he⟩ | ⟨-, -, he⟩ | ⟨-, -, he⟩ <;> rw [he]
  · exact List.prefix_append _ _
  · simp
  · simp

section
variable {s t : State} {m : Turn}

theorem State.Effect.obs_prefix (he : s.Effect m t) : s.obs <+: t.obs := by
  cases he with
  | host hc => rw [hc.frame]
  | sequencer => exact s.takePending.obs_prefix_handle _
  | inject => exact s.obs_prefix_handle _
  | refuse | protocolFault | prime | start | consumer => simp

theorem State.Effect.resp_prefix (he : s.Effect m t) : s.resp <+: t.resp := by
  cases he with
  | host hc => exact hc.resp
  | refuse | protocolFault | prime | start | sequencer | consumer | inject => simp

/-- Only the consumer adds to `WIRE`, the code at `RD` (43_transfer_consumer.md R236). -/
theorem State.Effect.wire_cases (he : s.Effect m t) :
    t.wire = s.wire ∨ (t.wire = s.wire ++ [s.readTB s.rd] ∧ s.consumerEnabled = true ∧ m = .consumer) := by
  cases he with
  | host hc => left; rw [hc.frame]
  | consumer hm hc => right; exact ⟨by rw [State.consume_eq], hc, hm⟩
  | refuse | protocolFault | prime | start | sequencer | inject => left; simp

end

/-- Settles O46, one trace at a time. -/
theorem tracesOnlyGrow : Obligations.TracesOnlyGrow := by
  unfold Obligations.TracesOnlyGrow
  intro s t hstep
  obtain ⟨-, l, he⟩ := step_effect hstep
  obtain ⟨o, ho⟩ := he.obs_prefix
  obtain ⟨r, hr⟩ := he.resp_prefix
  refine ⟨⟨o, ho.symm⟩, ⟨r, hr.symm⟩, he.wire_cases.imp id ?_⟩
  rintro ⟨hw, hc, hm⟩
  obtain ⟨hs, hsrc⟩ := State.consumerEnabled_iff.1 hc
  exact ⟨hw, hs, hsrc, hm⟩

end Sys2Proof.Machine
end

section
/-! Proof of the statement on the `STATUS` view. -/

namespace Sys2Proof.Machine

/-- Bit 7 of `STATUS` is set exactly when `FULLY_DRAINED` is pending (10_state.md R46). -/
theorem State.pendingKindBit_getLsbD (s : State) : s.pendingKindBit.getLsbD 0 = decide (s.pending = some .full) := by
  unfold State.pendingKindBit
  split
  · next h => simp [h]
  · next e h => cases e <;> simp [h, Event.bit]

/-- The fields of `STATUS` of more than one bit, and those held as one-bit words. -/
theorem State.status_fields (s : State) :
    s.status.extractLsb' 0 1 = s.phase.bit ∧ s.status.extractLsb' 1 1 = s.lastEv.bit
      ∧ s.status.extractLsb' 8 8 = s.cursor ∧ s.status.extractLsb' 16 8 = s.rcount
      ∧ s.status.extractLsb' 24 6 = BitVec.ofNat 6 s.rd.val ∧ s.status.extractLsb' 30 2 = (0 : BitVec 2) := by
  simp (disch := decide) only [State.status, BitVec.extractLsb'_append_eq_of_le, BitVec.extractLsb'_append_eq_of_add_le]
  simp

/-- The fields of `STATUS` of one bit. -/
theorem State.status_bits (s : State) :
    s.status.getLsbD 2 = s.primed ∧ s.status.getLsbD 3 = s.started ∧ s.status.getLsbD 4 = s.fEventOverrun
      ∧ s.status.getLsbD 5 = s.fHostProtocol ∧ s.status.getLsbD 6 = s.pending.isSome
      ∧ s.status.getLsbD 7 = s.pendingKindBit.getLsbD 0 := by
  simp only [State.status, BitVec.getLsbD_append]
  simp

/-- Settles O42, by the place of each field in the packed word. -/
theorem statusViewShowsTheRegisters : Obligations.StatusViewShowsTheRegisters := by
  unfold Obligations.StatusViewShowsTheRegisters
  intro s
  obtain ⟨hphase, hlast, hcursor, hrcount, hrd, hzero⟩ := s.status_fields
  obtain ⟨hprimed, hstarted, hoverrun, hprotocol, hpending, hkind⟩ := s.status_bits
  refine ⟨hphase, hlast, hprimed, hstarted, hoverrun, hprotocol, hpending, hkind.trans s.pendingKindBit_getLsbD,
    hcursor, hrcount, ?_, hzero⟩
  rw [hrd, BitVec.toNat_ofNat]
  omega

end Sys2Proof.Machine
end

section
/-! Proof of the statement on repeated commands: field writes, and the frames of `PRIME`, depend on nothing that they
themselves change. -/

namespace Sys2Proof.Machine

/-! ### Pixel commands -/

/-- A field of a record after writes depends on no field before them but itself. -/
theorem Pixel.get_foldl_put_congr {p q : Pixel} {f : Field} (h : p.get f = q.get f) (ws : List (Field × Byte)) :
    (ws.foldl (fun p w => p.put w.1 w.2) p).get f = (ws.foldl (fun p w => p.put w.1 w.2) q).get f := by
  induction ws generalizing p q with
  | nil => exact h
  | cons w ws ih =>
    apply ih
    by_cases hf : f = w.1
    · simp [hf]
    · rw [Pixel.get_put_other p w.2 hf, Pixel.get_put_other q w.2 hf, h]

/-- The last write of a field decides it, so the same writes again change nothing. -/
theorem Pixel.foldl_put_idem (p : Pixel) (ws : List (Field × Byte)) :
    ws.foldl (fun p w => p.put w.1 w.2) (ws.foldl (fun p w => p.put w.1 w.2) p) =
      ws.foldl (fun p w => p.put w.1 w.2) p := by
  induction ws using List.reverseRecOn with
  | nil => rfl
  | append_singleton ws w ih =>
    simp only [List.foldl_append, List.foldl_cons, List.foldl_nil]
    refine Pixel.ext_get fun f => ?_
    by_cases hf : f = w.1
    · simp [hf]
    · rw [Pixel.get_put_other _ w.2 hf, Pixel.get_foldl_put_congr (Pixel.get_put_other _ w.2 hf) ws, ih,
        Pixel.get_put_other _ w.2 hf]

/-- Past the last record there is nothing to write. -/
theorem State.writeFields_of_length_le {s : State} {i : Nat} (h : s.pix.length ≤ i) (ws : List (Field × Byte)) :
    s.writeFields i ws = s := by
  by_cases hws : ws = []
  · subst hws; rfl
  · rw [State.writeFields_eq s i hws, List.set_eq_of_length_le h]

theorem State.writeFields_idem (s : State) (i : Nat) (ws : List (Field × Byte)) :
    (s.writeFields i ws).writeFields i ws = s.writeFields i ws := by
  by_cases hi : i < s.pix.length
  · by_cases hws : ws = []
    · subst hws; rfl
    · rw [State.writeFields_eq _ i hws, State.readPixel_writeFields_same s ws hi, Pixel.foldl_put_idem,
        State.writeFields_eq s i hws]
      simp
  · rw [State.writeFields_of_length_le (Nat.le_of_not_lt hi), State.writeFields_of_length_le (Nat.le_of_not_lt hi)]

/-- Field writes under a condition that they leave as it is. -/
theorem State.writeFields_ite_idem {f : State → State} {accepted : State → Bool} {i : Nat} {ws : List (Field × Byte)}
    (hf : ∀ s : State, f s = if accepted s then s.writeFields i ws else s)
    (hacc : ∀ s : State, accepted (s.writeFields i ws) = accepted s) (s : State) : f (f s) = f s := by
  by_cases ha : accepted s = true
  · rw [hf s, if_pos ha, hf, hacc, if_pos ha, State.writeFields_idem]
  · rw [hf s, if_neg ha, hf, if_neg ha]

section
variable (s : State) (idx r g b br : Byte)

@[simp] theorem State.indexOk_writeFields (i : Nat) (ws : List (Field × Byte)) :
    (s.writeFields i ws).indexOk idx = s.indexOk idx := by
  simp [State.indexOk]

@[simp] theorem State.pixelAccepted_writeFields (i : Nat) (ws : List (Field × Byte)) :
    (s.writeFields i ws).pixelAccepted idx br = s.pixelAccepted idx br := by
  simp [State.pixelAccepted]

theorem State.setPixel_idem (p : Pixel) : (s.setPixel idx p).setPixel idx p = s.setPixel idx p :=
  State.writeFields_ite_idem (f := (·.setPixel idx p)) (fun _ => rfl)
    (fun u => u.pixelAccepted_writeFields idx p.br _ _) s

theorem State.setColour_idem (c : Colour) : (s.setColour idx c).setColour idx c = s.setColour idx c :=
  State.writeFields_ite_idem (f := (·.setColour idx c)) (fun _ => rfl)
    (fun u => u.indexOk_writeFields idx _ _) s

theorem State.setBrightness_idem : (s.setBrightness idx br).setBrightness idx br = s.setBrightness idx br :=
  State.writeFields_ite_idem (f := (·.setBrightness idx br)) (ws := [(.br, br)]) (fun _ => rfl)
    (fun u => u.pixelAccepted_writeFields idx br _ _) s

theorem State.setNorm_idem : (s.setNorm idx r g b br).setNorm idx r g b br = s.setNorm idx r g b br :=
  State.writeFields_ite_idem (f := (·.setNorm idx r g b br)) (fun _ => rfl)
    (fun u => u.pixelAccepted_writeFields idx br _ _) s

end

/-! ### `PRIME` -/

/-- Byte `k` of both frames of `PRIME` (42_streaming_sequencer.md R190). -/
theorem State.primeBuffers_tb_get (s : State) (k : Nat) (hk : k < 48) :
    s.primeBuffers.tb[k] =
      if halfOf k = .second ∧ 1 < s.cfg.n then frameCode s.cfg (s.readPixel 1).ledWord (k % 24)
      else if halfOf k = .first ∧ 0 < s.cfg.n then frameCode s.cfg (s.readPixel 0).ledWord (k % 24)
      else s.tb[k] := by
  have hpix : (s.encodeLed 0 .first).readPixel 1 = s.readPixel 1 := State.readPixel_congr (by simp) 1
  simp only [State.primeBuffers, State.encodeLed_tb_get, State.encodeLed_cfg, hpix]

theorem State.primeBuffers_primeBuffers_tb (s : State) : s.primeBuffers.primeBuffers.tb = s.primeBuffers.tb := by
  ext k hk
  have hpix (i : Nat) : s.primeBuffers.readPixel i = s.readPixel i := State.readPixel_congr (by simp) i
  rw [State.primeBuffers_tb_get s.primeBuffers k hk, State.primeBuffers_tb_get s k hk, State.primeBuffers_cfg, hpix,
    hpix]
  split
  · rfl
  · split <;> rfl

theorem State.primeBuffers_idem (s : State) : s.primeBuffers.primeBuffers = s.primeBuffers := by
  have htb := s.primeBuffers_primeBuffers_tb
  rw [State.primeBuffers_eq s.primeBuffers] at htb ⊢
  dsimp only at htb
  rw [htb]
  rfl

theorem execPrime_of_not_started {s : State} (h : s.started = false) : exec .prime s = .next s.primeBuffers := by
  simp [exec, execPrime, h]

/-- Settles O21, one command at a time. -/
theorem repeatedCommandChangesNothingMore : Obligations.RepeatedCommandChangesNothingMore := by
  unfold Obligations.RepeatedCommandChangesNothingMore
  rintro s idx r g b br i (rfl | rfl | rfl | rfl | ⟨rfl, hs⟩)
  · exact ⟨_, rfl, congrArg Host.Outcome.next (s.setPixel_idem idx ⟨r, g, b, br⟩)⟩
  · exact ⟨_, rfl, congrArg Host.Outcome.next (s.setColour_idem idx ⟨r, g, b⟩)⟩
  · exact ⟨_, rfl, congrArg Host.Outcome.next (s.setBrightness_idem idx br)⟩
  · exact ⟨_, rfl, congrArg Host.Outcome.next (s.setNorm_idem idx r g b br)⟩
  · refine ⟨_, execPrime_of_not_started hs, ?_⟩
    rw [execPrime_of_not_started (by rw [State.primeBuffers_started, hs]), s.primeBuffers_idem]

end Sys2Proof.Machine
end

section
/-! Proof of the statement on the transfer buffer: which effects of a move write it. -/

namespace Sys2Proof.Machine

/-- Only the handler, and `PRIME` before `START`, write the transfer buffer (20_memory.md R82). -/
theorem State.Effect.cause_of_tb {s t : State} {m : Turn} (he : s.Effect m t) (h : t.tb ≠ s.tb) :
    (m = .sequencer ∧ s.cfg.eventSource = .consumer ∧ s.pending ≠ none)
      ∨ (∃ e, m = .inject e ∧ s.cfg.eventSource = .external)
      ∨ (m.isCommand .prime = true ∧ s.started = false) := by
  cases he with
  | host hc => rw [hc.frame] at h; exact absurd rfl h
  | sequencer hm hsrc hp => exact .inl ⟨hm, hsrc, by simp [hp]⟩
  | inject hm hsrc => exact .inr (.inl ⟨_, hm, hsrc⟩)
  | prime hm hs => exact .inr (.inr ⟨hm, hs⟩)
  | refuse | protocolFault | start | consumer => simp at h

/-- Settles O47, by the effect of the step's move. -/
theorem onlyPrimeAndTheHandlerWriteTheBuffer : Obligations.OnlyPrimeAndTheHandlerWriteTheBuffer := by
  unfold Obligations.OnlyPrimeAndTheHandlerWriteTheBuffer
  intro s t hstep htb
  obtain ⟨-, l, he⟩ := step_effect hstep
  exact he.cause_of_tb htb

end Sys2Proof.Machine
end

section
/-! Proof of the statement on the host's state: a move of the hardware is an event handled, a code consumed, or nothing,
and none of these touches what is the host's. -/

namespace Sys2Proof.Machine

/-- `t` has the pixels, the fade state, the sequences in progress and the responses of `s`. -/
def State.SameHost (s t : State) : Prop :=
  t.pix = s.pix ∧ t.fade = s.fade ∧ t.tasks = s.tasks ∧ t.resp = s.resp

theorem State.SameHost.refl (s : State) : s.SameHost s := ⟨rfl, rfl, rfl, rfl⟩

theorem State.sameHost_handle (s : State) (e : Event) : s.SameHost (s.handle e) := by
  simp [State.SameHost]

theorem State.sameHost_consume (s : State) : s.SameHost s.consume := by
  simp [State.SameHost]

/-- A move of the sequencer, of the consumer or of the environment (60_exceptions.md R288, R294). -/
theorem State.takeTurn_sameHost {s t : State} {m : Turn} (h : s.takeTurn m = .next t)
    (hm : m = .sequencer ∨ m = .consumer ∨ ∃ e, m = .inject e) : s.SameHost t := by
  rcases hm with rfl | rfl | ⟨e, rfl⟩
  · simp only [State.takeTurn] at h
    rcases s.sequencerStep_cases with ⟨e, -, -, he⟩ | he <;> cases he.symm.trans h
    · exact s.takePending.sameHost_handle e
    · exact .refl s
  · cases h
    unfold State.consumerStep
    split
    · exact s.sameHost_consume
    · exact .refl s
  · simp only [State.takeTurn] at h
    rcases s.injectStep_cases e with ⟨-, he⟩ | he <;> cases he.symm.trans h
    · exact s.sameHost_handle e
    · exact .refl s

/-- Settles O48: the move is made in a state that differs in the moves in store alone. -/
theorem hardwareStepsLeaveTheHostAlone : Obligations.HardwareStepsLeaveTheHostAlone := by
  unfold Obligations.HardwareStepsLeaveTheHostAlone
  intro s t hstep hm
  obtain ⟨-, hturn⟩ := step_cases hstep
  rw [State.nextMove_frame] at hturn
  have hsame := State.takeTurn_sameHost hturn hm
  exact hsame

end Sys2Proof.Machine
end

section
/-! The decoder said once: a word is read by the one row that accepts it, and each operand is its field of the word
(30_encoding.md R104 to R106). -/

namespace Sys2Proof.Laws.Encoding

open Sys2Proof.Laws.TableRow

/-! ### The rows of the table -/

theorem eq_of_pattern_op : ∀ row ∈ decodeTable, ∀ row' ∈ decodeTable,
    row.pattern.extractLsb' 56 8 = row'.pattern.extractLsb' 56 8 → row = row' := by decide

/-- Two rows that accept one word have its opcode, and no two rows have the same. -/
theorem eq_of_accepts {row row' : DecodeRow} (hr : row ∈ decodeTable) (hr' : row' ∈ decodeTable) {w : CommandWord}
    (h : row.accepts w = true) (h' : row'.accepts w = true) : row = row' :=
  eq_of_pattern_op row hr row' hr' ((op_of_accepts hr h).symm.trans (op_of_accepts hr' h'))

theorem accepts_eq_decide {row : DecodeRow} (hr : row ∈ decodeTable) {w : CommandWord} (h : row.accepts w = true) :
    ∀ row' ∈ decodeTable, row'.accepts w = decide (row' = row) := by
  intro row' hr'
  rw [Bool.eq_iff_iff, decide_eq_true_iff]
  exact ⟨fun h' => eq_of_accepts hr' hr h' h, fun heq => heq ▸ h⟩

theorem mask_covers_rsv : ∀ row ∈ decodeTable, ∀ i < 16, row.mask.getLsbD i = true := by decide

theorem pattern_rsv : ∀ row ∈ decodeTable, row.pattern.extractLsb' 0 16 = (0 : BitVec 16) := by decide

/-- An accepted word is packed from the row's opcode and its own five operand fields. -/
theorem packWord_of_accepts {row : DecodeRow} (hr : row ∈ decodeTable) {w : CommandWord} (h : row.accepts w = true) :
    packWord (row.pattern.extractLsb' 56 8) (idxField w) (rField w) (gField w) (bField w) (brField w) = w := by
  have hrsv := (field_of_accepts h 0 16 fun i _ hi => mask_covers_rsv row hr i (by omega)).trans (pattern_rsv row hr)
  rw [← op_of_accepts hr h]
  exact packWord_fields w hrsv

/-- The colour fields are 0 in the words of the two rows that use only `idx` and `br`, or `idx`. -/
theorem colourFields_of_accepts {row : DecodeRow} (hrow : row = rowSetbrt ∨ row = rowGetpix) {w : CommandWord}
    (h : row.accepts w = true) : rField w = 0 ∧ gField w = 0 ∧ bField w = 0 := by
  rcases hrow with rfl | rfl <;>
  exact ⟨field_of_accepts h 40 8 (by decide), field_of_accepts h 32 8 (by decide), field_of_accepts h 24 8 (by decide)⟩

theorem packWord_rsv (op idx r g b br : Byte) :
    (packWord op idx r g b br).extractLsb' 0 16 = (0 : BitVec 16) := by
  simp (disch := decide) only [packWord, BitVec.extractLsb'_append_eq_of_add_le]
  simp

/-! ### The row of an instruction -/

theorem statement_holds (i : Instr) : Statement i := by
  cases i with
  | setpix idx r g b br => exact setpix idx r g b br
  | setcol idx r g b => exact setcol idx r g b
  | setbrt idx br => exact setbrt idx br
  | setnorm idx r g b br => exact setnorm idx r g b br
  | getpix idx => exact getpix idx
  | prime => exact prime
  | start => exact start
  | halfDrained => exact halfDrained
  | fullyDrained => exact fullyDrained

theorem row_of_encode {i : Instr} {w : CommandWord} (h : encode i = .command w) :
    ∃ row, rowOf i = some row ∧ row.accepts w = true := by
  have hs := statement_holds i
  unfold Statement at hs
  rw [h] at hs
  cases hrow : rowOf i with
  | none => simp [hrow] at hs
  | some row => exact ⟨row, rfl, by simpa [hrow] using hs⟩

theorem decodeEvent_of_encode {i : Instr} {w : EventWord} (h : encode i = .event w) : decodeEvent w = i := by
  have hs := statement_holds i
  unfold Statement at hs
  rw [h] at hs
  cases hrow : rowOf i with
  | none => simpa [hrow] using hs
  | some row => simp [hrow] at hs

theorem rowOf_mem {i : Instr} {row : DecodeRow} (h : rowOf i = some row) : row ∈ decodeTable := by
  cases i with
  | halfDrained | fullyDrained => cases h
  | _ => cases h; decide

theorem exists_rowOf : ∀ row ∈ decodeTable, ∃ i, rowOf i = some row := by
  simp only [decodeTable, List.forall_mem_cons, List.not_mem_nil, false_implies, implies_true, and_true]
  exact ⟨⟨.setpix 0 0 0 0 0, rfl⟩, ⟨.setcol 0 0 0 0, rfl⟩, ⟨.setbrt 0 0, rfl⟩, ⟨.setnorm 0 0 0 0 0, rfl⟩,
    ⟨.getpix 0, rfl⟩, ⟨.prime, rfl⟩, ⟨.start, rfl⟩⟩

/-! ### Reading a word -/

/-- The instruction of the same mnemonic with the operands that the fields of `w` hold. -/
def readFrom (w : CommandWord) : Instr → Instr
  | .setpix _ _ _ _ _ => .setpix (idxField w) (rField w) (gField w) (bField w) (brField w)
  | .setcol _ _ _ _ => .setcol (idxField w) (rField w) (gField w) (bField w)
  | .setbrt _ _ => .setbrt (idxField w) (brField w)
  | .setnorm _ _ _ _ _ => .setnorm (idxField w) (rField w) (gField w) (bField w) (brField w)
  | .getpix _ => .getpix (idxField w)
  | .prime => .prime
  | .start => .start
  | .halfDrained => .halfDrained
  | .fullyDrained => .fullyDrained

/-- A word that the row of `i` accepts is read as `i` with the word's operands. -/
theorem decodeCommand_of_row {i : Instr} {row : DecodeRow} (hi : rowOf i = some row) {w : CommandWord}
    (h : row.accepts w = true) : decodeCommand w = .ok (readFrom w i) := by
  have hrow := accepts_eq_decide (rowOf_mem hi) h
  simp only [decodeTable, List.forall_mem_cons] at hrow
  obtain ⟨h1, h2, h3, h4, h5, h6, h7, -⟩ := hrow
  simp only [decodeCommand, h1, h2, h3, h4, h5, h6, h7]
  cases i with
  | halfDrained | fullyDrained => cases hi
  | _ => cases hi; rfl

/-- A word that decodes is read by the row of some command. -/
theorem readFrom_of_decodeCommand {w : CommandWord} {i : Instr} (h : decodeCommand w = .ok i) :
    ∃ j row, rowOf j = some row ∧ row.accepts w = true ∧ i = readFrom w j := by
  by_cases hno : ∀ row ∈ decodeTable, row.accepts w = false
  · obtain ⟨e, he⟩ := decodeCommand_error hno
    cases h.symm.trans he
  · simp only [not_forall, Bool.not_eq_false] at hno
    obtain ⟨row, hr, hacc⟩ := hno
    obtain ⟨j, hj⟩ := exists_rowOf row hr
    have hread := decodeCommand_of_row hj hacc
    exact ⟨j, row, hj, hacc, by cases h.symm.trans hread; rfl⟩

/-! ### The round trip -/

/-- The fields of an instruction's word are its operands. -/
theorem readFrom_of_encode {i : Instr} {w : CommandWord} (h : encode i = .command w) : readFrom w i = i := by
  cases i with
  | halfDrained | fullyDrained => rfl
  | _ => cases h; simp [readFrom, fields_packWord]

theorem decodeCommand_of_encode {i : Instr} {w : CommandWord} (h : encode i = .command w) :
    decodeCommand w = .ok i := by
  obtain ⟨row, hi, hacc⟩ := row_of_encode h
  rw [decodeCommand_of_row hi hacc, readFrom_of_encode h]

/-- The fields that a command does not use are 0 in every word its row accepts, so its operands give the word back. -/
theorem encode_readFrom {i : Instr} {row : DecodeRow} (hi : rowOf i = some row) {w : CommandWord}
    (h : row.accepts w = true) : encode (readFrom w i) = .command w := by
  have hw := packWord_of_accepts (rowOf_mem hi) h
  cases i with
  | setpix | setnorm => cases hi; exact congrArg PortWord.command hw
  | setcol =>
    cases hi
    have hbr : brField w = 0 := field_of_accepts h 16 8 (by decide)
    rw [hbr] at hw
    exact congrArg PortWord.command hw
  | setbrt =>
    cases hi
    obtain ⟨hr, hg, hb⟩ := colourFields_of_accepts (.inl rfl) h
    rw [hr, hg, hb] at hw
    exact congrArg PortWord.command hw
  | getpix =>
    cases hi
    obtain ⟨hr, hg, hb⟩ := colourFields_of_accepts (.inr rfl) h
    have hbr : brField w = 0 := field_of_accepts h 16 8 (by decide)
    rw [hr, hg, hb, hbr] at hw
    exact congrArg PortWord.command hw
  | prime | start =>
    cases hi
    have hword : w.extractLsb' 0 64 = _ := field_of_accepts h 0 64 (by decide)
    rw [BitVec.extractLsb'_eq_self] at hword
    rw [hword]
    rfl
  | halfDrained | fullyDrained => cases hi

theorem encode_of_decodeCommand {w : CommandWord} {i : Instr} (h : decodeCommand w = .ok i) :
    encode i = .command w := by
  obtain ⟨j, row, hj, hacc, rfl⟩ := readFrom_of_decodeCommand h
  exact encode_readFrom hj hacc

theorem encode_decodeEvent (w : EventWord) : encode (decodeEvent w) = .event w := by
  rcases BitVec.eq_zero_or_eq_one w with rfl | rfl <;> rfl

/-- Settles O1: the row of an instruction accepts its word, and the fields of the word are its operands. -/
theorem encodedInstructionDecodes : Obligations.EncodedInstructionDecodes := by
  unfold Obligations.EncodedInstructionDecodes
  intro i
  cases h : encode i with
  | command w => exact decodeCommand_of_encode h
  | event w => exact congrArg Except.ok (decodeEvent_of_encode h)

/-- Settles O2: the row that accepts a word fixes every bit of it that is no operand. -/
theorem decodedWordIsItsEncoding : Obligations.DecodedWordIsItsEncoding := by
  unfold Obligations.DecodedWordIsItsEncoding
  intro p i h
  cases p with
  | command w => exact encode_of_decodeCommand h
  | event w => cases h; exact encode_decodeEvent w

/-- Settles O3, by the opcodes of the rows. -/
theorem atMostOneRowMatches : Obligations.AtMostOneRowMatches := by
  unfold Obligations.AtMostOneRowMatches
  intro w row hr row' hr' h h'
  exact eq_of_accepts hr hr' h h'

/-- Settles O4, by running the decoder on each word. -/
theorem spelledOutWordsDecode : Obligations.SpelledOutWordsDecode := by
  unfold Obligations.SpelledOutWordsDecode
  decide

end Sys2Proof.Laws.Encoding
end

section
/-! Proof of the statement on words of no command: both ways to issue one come to `State.refuse`. -/

namespace Sys2Proof.Machine

/-- The oldest move in store is the one made. -/
theorem step_of_move {s : State} (hv : s.cfg.valid = true) (m : Turn) (rest : List Turn) :
    step { s with inputs := m :: rest } = ({ s with inputs := rest } : State).takeTurn m :=
  step_of_valid (s := { s with inputs := m :: rest }) hv

theorem State.takeTurn_whole {s : State} {h : Nat} (hb : s.busy h = false) (a : HostAction) :
    s.takeTurn (.whole h a) = s.runAction a := by
  simp [State.takeTurn, hb]

theorem State.takeTurn_split {s : State} {h : Nat} (hb : s.busy h = false) (a : HostAction) :
    s.takeTurn (.split h a) = s.beginAction h a := by
  simp [State.takeTurn, hb]

section
variable {w : CommandWord} {e : DecodeError} (he : decodeCommand w = .error e) (s : State)
include he

theorem State.runAction_of_error : s.runAction (.command w) = .next s.refuse := by
  simp [State.runAction, State.runCommand, he]

theorem State.beginAction_of_error (h : Nat) : s.beginAction h (.command w) = .next s.refuse := by
  simp [State.beginAction, he]

end

/-- Settles O5: the decoder answers an error, and the move refuses the word. -/
theorem wordOfNoCommandSetsRefusedOnly : Obligations.WordOfNoCommandSetsRefusedOnly := by
  unfold Obligations.WordOfNoCommandSetsRefusedOnly
  intro s h w rest hv hb hno
  obtain ⟨e, he⟩ := Laws.Encoding.decodeCommand_error hno
  have hb' : ({ s with inputs := rest } : State).busy h = false := hb
  constructor
  · rw [step_of_move hv, State.takeTurn_whole hb', State.runAction_of_error he]
    rfl
  · rw [step_of_move hv, State.takeTurn_split hb', State.beginAction_of_error he]
    rfl

end Sys2Proof.Machine
end

section
/-! Proof of the statement on the assembler: what is not well formed has no instruction, and bytes are well formed. -/

namespace Sys2Proof

theorem Written.wellFormed_iff (w : Written) :
    w.wellFormed = true ↔ w.operands.length = w.mnemonic.arity ∧ ∀ v ∈ w.operands, v ≤ 255 := by
  simp [Written.wellFormed, Written.arityOk, Written.rangeOk]

theorem byte_toNat_le (b : Byte) : b.toNat ≤ 255 := Nat.le_of_lt_succ b.isLt

end Sys2Proof

namespace Sys2Proof.Machine

theorem assemble_of_not_wellFormed {w : Written} (h : w.wellFormed ≠ true) : assemble w = none := by
  simp [assemble, instrOfWritten, h]

/-- A command that spells an instruction assembles to the word of that instruction. -/
theorem assemble_of_instr {w : Written} {i : Instr} {cw : CommandWord} (hi : instrOfWritten w = some i)
    (he : encode i = .command cw) : ∃ cw, assemble w = some cw ∧ decodeCommand cw = .ok i :=
  ⟨cw, by simp [assemble, hi, commandWordOf, he], Laws.Encoding.decodeCommand_of_encode he⟩

/-- Settles O6: bytes pass the range check and are read back as they were written, and the word decodes. -/
theorem assembledCommandDecodes : Obligations.AssembledCommandDecodes := by
  unfold Obligations.AssembledCommandDecodes
  refine ⟨fun w h => assemble_of_not_wellFormed fun hw => ?_, fun idx r g b br => ?_⟩
  · obtain ⟨hlen, hrange⟩ := w.wellFormed_iff.1 hw
    rcases h with h | ⟨v, hv, hlt⟩
    · exact h hlen
    · exact Nat.not_lt.2 (hrange v hv) hlt
  · refine ⟨assemble_of_instr ?_ rfl, assemble_of_instr ?_ rfl, assemble_of_instr ?_ rfl, assemble_of_instr ?_ rfl,
      assemble_of_instr ?_ rfl, assemble_of_instr rfl rfl, assemble_of_instr rfl rfl⟩ <;>
    simp [instrOfWritten, Written.wellFormed_iff, Mnemonic.arity, byte_toNat_le]

end Sys2Proof.Machine
end

section
/-! Proof of the statement on `GETPIX`: its response is a packed word (30_encoding.md R110). -/

namespace Sys2Proof.Machine

theorem responseWord_eq_packWord (idx : Byte) (p : Pixel) :
    responseWord idx p = packWord 0x05 idx p.r p.g p.b p.br := rfl

theorem State.pixelOrSentinel_of_lt {s : State} {idx : Byte} (h : idx.toNat < s.cfg.n) :
    s.pixelOrSentinel idx = s.readPixel idx.toNat := by
  simp [State.pixelOrSentinel, State.indexOk, h]

theorem exec_getpix_of_lt {s : State} {idx : Byte} (h : idx.toNat < s.cfg.n) :
    exec (.getpix idx) s = .next (s.respond (responseWord idx (s.readPixel idx.toNat))) := by
  rw [← State.pixelOrSentinel_of_lt h]
  rfl

/-- Settles O18: the fields of the response are what it is packed from. -/
theorem getpixRespondsWithThePixel : Obligations.GetpixRespondsWithThePixel := by
  unfold Obligations.GetpixRespondsWithThePixel
  intro s idx hi
  refine ⟨_, exec_getpix_of_lt hi, ?_⟩
  rw [responseWord_eq_packWord]
  obtain ⟨hop, hidx, hr, hg, hb, hbr⟩ := Laws.Encoding.fields_packWord 0x05 idx (s.readPixel idx.toNat).r
    (s.readPixel idx.toNat).g (s.readPixel idx.toNat).b (s.readPixel idx.toNat).br
  exact ⟨hop, hidx, hr, hg, hb, hbr, Laws.Encoding.packWord_rsv ..⟩

end Sys2Proof.Machine
end

section
/-! Proofs of the statements on the pixel commands run whole: an accepted command is its field writes, a rejected one
changes nothing (40_pixel_store.md R131, R132). -/

namespace Sys2Proof.Machine

/-! ### Accepted and rejected commands -/

theorem State.indexOk_iff {s : State} {idx : Byte} : s.indexOk idx = true ↔ idx.toNat < s.cfg.n := by
  simp [State.indexOk]

theorem State.pixelAccepted_iff {s : State} {idx br : Byte} :
    s.pixelAccepted idx br = true ↔ idx.toNat < s.cfg.n ∧ br.toNat ≤ 100 := by
  simp [State.pixelAccepted, State.indexOk, brightnessOk]

section
variable {s : State} {idx br : Byte} (h : s.pixelAccepted idx br = true) (r g b : Byte)
include h

theorem exec_setpix_of_accepted :
    exec (.setpix idx r g b br) s = .next (s.writeFields idx.toNat (pixelWrites ⟨r, g, b, br⟩)) :=
  congrArg Host.Outcome.next (if_pos h)

theorem exec_setbrt_of_accepted : exec (.setbrt idx br) s = .next (s.writeFields idx.toNat [(.br, br)]) :=
  congrArg Host.Outcome.next (if_pos h)

theorem exec_setnorm_of_accepted :
    exec (.setnorm idx r g b br) s = .next (s.writeFields idx.toNat (colourWrites (normColour r g b br))) :=
  congrArg Host.Outcome.next (if_pos h)

end

section
variable {s : State} {idx br : Byte} (h : ¬s.pixelAccepted idx br = true) (r g b : Byte)
include h

theorem exec_setpix_of_rejected : exec (.setpix idx r g b br) s = .next s := congrArg Host.Outcome.next (if_neg h)

theorem exec_setbrt_of_rejected : exec (.setbrt idx br) s = .next s := congrArg Host.Outcome.next (if_neg h)

theorem exec_setnorm_of_rejected : exec (.setnorm idx r g b br) s = .next s := congrArg Host.Outcome.next (if_neg h)

end

theorem exec_setcol_of_indexOk {s : State} {idx : Byte} (h : s.indexOk idx = true) (r g b : Byte) :
    exec (.setcol idx r g b) s = .next (s.writeFields idx.toNat (colourWrites ⟨r, g, b⟩)) :=
  congrArg Host.Outcome.next (if_pos h)

theorem exec_setcol_of_not_indexOk {s : State} {idx : Byte} (h : ¬s.indexOk idx = true) (r g b : Byte) :
    exec (.setcol idx r g b) s = .next s :=
  congrArg Host.Outcome.next (if_neg h)

/-- `GETPIX` past the last LED responds with the sentinel (R151). -/
theorem exec_getpix_of_not_indexOk {s : State} {idx : Byte} (h : ¬s.indexOk idx = true) :
    exec (.getpix idx) s = .next (s.respond (packWord 0x05 idx 0 0 0 0)) := by
  have hsentinel : s.pixelOrSentinel idx = Pixel.zero := if_neg h
  show Host.Outcome.next (s.getPixel idx) = _
  rw [State.getPixel, hsentinel, responseWord_eq_packWord]
  rfl

/-- Settles O16: the index is tested before anything else. -/
theorem indexOutOfRangeWritesNothing : Obligations.IndexOutOfRangeWritesNothing := by
  unfold Obligations.IndexOutOfRangeWritesNothing
  intro s idx r g b br hn
  have hidx : ¬s.indexOk idx = true := fun h => Nat.not_lt.2 hn (State.indexOk_iff.1 h)
  have hacc : ¬s.pixelAccepted idx br = true := fun h => Nat.not_lt.2 hn (State.pixelAccepted_iff.1 h).1
  exact ⟨exec_setpix_of_rejected hacc r g b, exec_setcol_of_not_indexOk hidx r g b, exec_setbrt_of_rejected hacc,
    exec_setnorm_of_rejected hacc r g b, exec_getpix_of_not_indexOk hidx⟩

/-- Settles O17: the brightness is tested before anything is written. -/
theorem brightnessAbove100WritesNothing : Obligations.BrightnessAbove100WritesNothing := by
  unfold Obligations.BrightnessAbove100WritesNothing
  intro s idx r g b br hbr
  have hacc : ¬s.pixelAccepted idx br = true := fun h => Nat.not_le.2 hbr (State.pixelAccepted_iff.1 h).2
  exact ⟨exec_setpix_of_rejected hacc r g b, exec_setbrt_of_rejected hacc, exec_setnorm_of_rejected hacc r g b⟩

/-! ### What an accepted command writes -/

/-- The four writes of `SETPIX` leave nothing of the record before them. -/
theorem foldl_pixelWrites (p q : Pixel) : (pixelWrites p).foldl (fun p w => p.put w.1 w.2) q = p := rfl

/-- The three writes of a colour leave the brightness. -/
theorem foldl_colourWrites (c : Colour) (q : Pixel) :
    (colourWrites c).foldl (fun p w => p.put w.1 w.2) q = ⟨c.r, c.g, c.b, q.br⟩ := rfl

/-- A command that is field writes of an LED replaces that LED's record and changes nothing else. -/
theorem exec_of_writeFields {i : Instr} {s : State} {led : Nat} {ws : List (Field × Byte)} (hw : Memory.wf s = true)
    (hled : led < s.cfg.n) (he : exec i s = .next (s.writeFields led ws)) :
    ∃ t, exec i s = .next t
      ∧ t.readPixel led = ws.foldl (fun p w => p.put w.1 w.2) (s.readPixel led)
      ∧ (∀ j, j ≠ led → t.readPixel j = s.readPixel j)
      ∧ t = { s with pix := t.pix } := by
  obtain ⟨hlen, -, -⟩ := (Memory.wf_iff s).1 hw
  exact ⟨_, he, State.readPixel_writeFields_same s ws (by omega), fun j => State.readPixel_writeFields_other s ws,
    State.writeFields_frame s led ws⟩

/-- Settles O11: the four writes make up the whole record. -/
theorem setpixWritesThePixel : Obligations.SetpixWritesThePixel := by
  unfold Obligations.SetpixWritesThePixel
  intro s idx r g b br hw hidx hbr
  have he := exec_setpix_of_accepted (State.pixelAccepted_iff.2 ⟨hidx, hbr⟩) r g b
  have h := exec_of_writeFields hw hidx he
  rwa [foldl_pixelWrites] at h

/-- Settles O12: the colour writes leave the brightness. -/
theorem setcolWritesTheColour : Obligations.SetcolWritesTheColour := by
  unfold Obligations.SetcolWritesTheColour
  intro s idx r g b hw hidx
  have h := exec_of_writeFields hw hidx (exec_setcol_of_indexOk (State.indexOk_iff.2 hidx) r g b)
  rwa [foldl_colourWrites] at h

/-- Settles O13: the one write leaves the colour. -/
theorem setbrtWritesTheBrightness : Obligations.SetbrtWritesTheBrightness := by
  unfold Obligations.SetbrtWritesTheBrightness
  intro s idx br hw hidx hbr
  exact exec_of_writeFields hw hidx (exec_setbrt_of_accepted (State.pixelAccepted_iff.2 ⟨hidx, hbr⟩))

end Sys2Proof.Machine
end

section
/-! Proofs of the statements on `SETNORM`: each channel is its share of the target, rounded (40_pixel_store.md R145 to
R147), and the share of the largest channel is the target itself. -/

namespace Sys2Proof.Machine

theorem roundsTo_roundHalfUp (num : Nat) {den : Nat} (h : 0 < den) : RoundsTo (roundHalfUp num den) num den :=
  roundHalfUp_bounds num h

theorem roundsTo_normTarget (br : Byte) : RoundsTo (normTarget br) (br.toNat * 255) 100 :=
  roundsTo_roundHalfUp _ (by decide)

theorem Colour.get_le_largest (c : Colour) (ch : Channel) : (c.get ch).toNat ≤ c.largest := by
  cases ch <;> simp [Colour.get, Colour.largest]

/-- A channel that is the largest of the operands is so after all-zero input has become white. -/
theorem normInput_get_eq_largest {r g b : Byte} {ch : Channel}
    (h : ((⟨r, g, b⟩ : Colour).get ch).toNat = (⟨r, g, b⟩ : Colour).largest) :
    ((normInput r g b).get ch).toNat = (normInput r g b).largest := by
  unfold normInput
  split
  · cases ch <;> rfl
  · exact h

theorem normColour_get (r g b br : Byte) (ch : Channel) :
    (normColour r g b br).get ch =
      normChannel ((normInput r g b).get ch) (normTarget br) (normInput r g b).largest := by
  cases ch <;> rfl

/-- The input channels as naturals (R146). -/
theorem normInput_toNat (r g b : Byte) :
    if r = 0 ∧ g = 0 ∧ b = 0 then
      (normInput r g b).r.toNat = 255 ∧ (normInput r g b).g.toNat = 255 ∧ (normInput r g b).b.toNat = 255
    else
      (normInput r g b).r.toNat = r.toNat ∧ (normInput r g b).g.toNat = g.toNat ∧ (normInput r g b).b.toNat = b.toNat := by
  unfold normInput
  split <;> exact ⟨rfl, rfl, rfl⟩

section
variable {br : Byte} (hbr : br.toNat ≤ 100) (r g b : Byte) (ch : Channel)
include hbr

/-- With an accepted brightness a channel fits its byte. -/
theorem normColour_get_toNat :
    ((normColour r g b br).get ch).toNat =
      roundHalfUp (((normInput r g b).get ch).toNat * normTarget br) (normInput r g b).largest := by
  rw [normColour_get]
  exact normChannel_toNat (normInput_largest_pos r g b) (Colour.get_le_largest _ ch) (normTarget_le hbr)

theorem normColour_roundsTo :
    RoundsTo ((normColour r g b br).get ch).toNat (((normInput r g b).get ch).toNat * normTarget br)
      (normInput r g b).largest := by
  rw [normColour_get_toNat hbr]
  exact roundsTo_roundHalfUp _ (normInput_largest_pos r g b)

theorem normColour_get_le_target : ((normColour r g b br).get ch).toNat ≤ normTarget br := by
  rw [normColour_get_toNat hbr]
  exact roundHalfUp_le _ (normInput_largest_pos r g b) (Colour.get_le_largest _ ch)

variable {r g b ch}

theorem normColour_get_eq_target (h : ((⟨r, g, b⟩ : Colour).get ch).toNat = (⟨r, g, b⟩ : Colour).largest) :
    ((normColour r g b br).get ch).toNat = normTarget br := by
  rw [normColour_get_toNat hbr, normInput_get_eq_largest h]
  exact roundHalfUp_self _ (normInput_largest_pos r g b)

end

/-- An accepted `SETNORM` writes `normColour` and nothing else. -/
theorem exec_setnorm_writes {s : State} {idx br : Byte} (hw : Memory.wf s = true) (hidx : idx.toNat < s.cfg.n)
    (hbr : br.toNat ≤ 100) (r g b : Byte) :
    ∃ t, exec (.setnorm idx r g b br) s = .next t
      ∧ t.readPixel idx.toNat =
        ⟨(normColour r g b br).r, (normColour r g b br).g, (normColour r g b br).b, (s.readPixel idx.toNat).br⟩
      ∧ (∀ j, j ≠ idx.toNat → t.readPixel j = s.readPixel j)
      ∧ t = { s with pix := t.pix } := by
  have he := exec_setnorm_of_accepted (State.pixelAccepted_iff.2 ⟨hidx, hbr⟩) r g b
  have h := exec_of_writeFields hw hidx he
  rwa [foldl_colourWrites] at h

/-- Settles O14: the channels and the target are rounded half up, over the input of R146. -/
theorem setnormScalesTheColour : Obligations.SetnormScalesTheColour := by
  unfold Obligations.SetnormScalesTheColour
  intro s idx r g b br hw hidx hbr
  obtain ⟨t, he, hsame, hother, hframe⟩ := exec_setnorm_writes hw hidx hbr r g b
  refine ⟨t, normTarget br, (normInput r g b).r.toNat, (normInput r g b).g.toNat, (normInput r g b).b.toNat, he,
    normInput_toNat r g b, roundsTo_normTarget br, ?_⟩
  rw [hsame]
  exact ⟨normColour_roundsTo hbr r g b .r, normColour_roundsTo hbr r g b .g, normColour_roundsTo hbr r g b .b, rfl,
    hother, hframe⟩

/-- Settles O15: the share of the largest channel is the target, and no share is more. -/
theorem setnormDrivesTheLargestChannelToTheTarget : Obligations.SetnormDrivesTheLargestChannelToTheTarget := by
  unfold Obligations.SetnormDrivesTheLargestChannelToTheTarget
  intro s idx r g b br hw hidx hbr
  obtain ⟨t, he, hsame, -, -⟩ := exec_setnorm_writes hw hidx hbr r g b
  refine ⟨t, normTarget br, he, roundsTo_normTarget br, ?_⟩
  rw [hsame]
  refine ⟨fun hg hb => normColour_get_eq_target (ch := .r) hbr ?_,
    fun hr hb => normColour_get_eq_target (ch := .g) hbr ?_,
    fun hr hg => normColour_get_eq_target (ch := .b) hbr ?_,
    normColour_get_le_target hbr r g b .r, normColour_get_le_target hbr r g b .g,
    normColour_get_le_target hbr r g b .b⟩ <;>
  · simp only [Colour.get, Colour.largest]
    omega

end Sys2Proof.Machine
end

section
/-! Proofs of the statements on a write followed by `GETPIX`: the response depends on the configuration and the one
record alone. -/

namespace Sys2Proof.Machine

theorem exec_getpix_of_readPixel {t : State} {idx : Byte} {p : Pixel} (hidx : idx.toNat < t.cfg.n)
    (hp : t.readPixel idx.toNat = p) :
    exec (.getpix idx) t = .next { t with resp := t.resp ++ [packWord 0x05 idx p.r p.g p.b p.br] } := by
  rw [exec_getpix_of_lt hidx, hp]
  rfl

/-- `GETPIX` in a state that has the configuration and the record of one that differs from `s` in pixels alone. -/
theorem exec_getpix_after {s t u : State} {idx : Byte} {p : Pixel} (hidx : idx.toNat < s.cfg.n)
    (hu : u = { s with pix := u.pix }) (hp : u.readPixel idx.toNat = p) (hc : t.cfg = u.cfg)
    (ht : t.readPixel idx.toNat = u.readPixel idx.toNat) :
    exec (.getpix idx) t = .next { t with resp := t.resp ++ [packWord 0x05 idx p.r p.g p.b p.br] } := by
  have hcfg : u.cfg = s.cfg := by rw [hu]
  exact exec_getpix_of_readPixel (by rw [hc, hcfg]; exact hidx) (ht.trans hp)

/-- Settles O19: `SETCOL` has made the record that `GETPIX` reads. -/
theorem setcolThenGetpixRoundTrip : Obligations.SetcolThenGetpixRoundTrip := by
  unfold Obligations.SetcolThenGetpixRoundTrip
  intro s t idx r g b hw hidx
  obtain ⟨u, he, hsame, -, hframe⟩ := setcolWritesTheColour s idx r g b hw hidx
  have hget := exec_getpix_after (t := t) hidx hframe hsame
  exact ⟨u, he, hget⟩

/-- Settles O20: an accepted `SETBRT` has made the record that `GETPIX` reads, a rejected one has left it. -/
theorem setbrtThenGetpixRoundTrip : Obligations.SetbrtThenGetpixRoundTrip := by
  unfold Obligations.SetbrtThenGetpixRoundTrip
  intro s t idx br hw hidx
  by_cases hbr : br.toNat ≤ 100
  · obtain ⟨u, he, hsame, -, hframe⟩ := setbrtWritesTheBrightness s idx br hw hidx hbr
    have hget := exec_getpix_after (t := t) hidx hframe hsame
    rw [if_pos hbr]
    exact ⟨u, he, hget⟩
  · have he : exec (.setbrt idx br) s = .next s :=
      exec_setbrt_of_rejected fun h => hbr (State.pixelAccepted_iff.1 h).2
    have hget := exec_getpix_after (s := s) (t := t) (u := s) hidx rfl rfl
    rw [if_neg hbr]
    exact ⟨s, he, hget⟩

end Sys2Proof.Machine
end

section
/-! Proofs of the statements on the frame of the pixel commands and on a torn `SETPIX` (40_pixel_store.md R133, R134). -/

namespace Sys2Proof.Machine

/-! ### The frame of every pixel command -/

/-- A change of pixels alone is a change of at most pixels and responses. -/
theorem State.frame_of_pix {s t : State} (h : t = { s with pix := t.pix }) :
    t = { s with pix := t.pix, resp := t.resp } := by
  rw [h]

theorem exec_pixelCommand_frame {i : Instr} (hi : Instr.isPixelCommand i = true) (s : State) :
    ∃ t, exec i s = .next t ∧ t = { s with pix := t.pix, resp := t.resp } := by
  cases i with
  | setpix idx r g b br => exact ⟨_, rfl, State.frame_of_pix (s.setPixel_frame ..)⟩
  | setcol idx r g b => exact ⟨_, rfl, State.frame_of_pix (s.setColour_frame ..)⟩
  | setbrt idx br => exact ⟨_, rfl, State.frame_of_pix (s.setBrightness_frame ..)⟩
  | setnorm idx r g b br => exact ⟨_, rfl, State.frame_of_pix (s.setNorm_frame ..)⟩
  | getpix idx => exact ⟨_, rfl, rfl⟩
  | prime | start | halfDrained | fullyDrained => cases hi

/-- A sequence begun, or the command rejected. -/
theorem State.ite_putTask_frame (s : State) (t : Task) (c : Prop) [Decidable c] :
    (if c then s.putTask t else s) = { s with tasks := (if c then s.putTask t else s).tasks } := by
  split <;> rfl

theorem State.beginCommand_pixelCommand_frame {i : Instr} (hi : Instr.isPixelCommand i = true) (s : State) (h : Nat) :
    ∃ t, s.beginCommand h i = .next t ∧ t = { s with pix := t.pix, resp := t.resp, tasks := t.tasks } := by
  cases i with
  | setpix idx r g b br => exact ⟨_, rfl, by rw [State.ite_putTask_frame]⟩
  | setcol idx r g b => exact ⟨_, rfl, by rw [State.ite_putTask_frame]⟩
  | setnorm idx r g b br => exact ⟨_, rfl, by rw [State.ite_putTask_frame]⟩
  | setbrt idx br => exact ⟨_, rfl, by rw [State.setBrightness_frame]⟩
  | getpix idx => exact ⟨_, rfl, rfl⟩
  | prime | start | halfDrained | fullyDrained => cases hi

/-- Settles O22, by the command. -/
theorem pixelCommandsLeaveTheStreamAlone : Obligations.PixelCommandsLeaveTheStreamAlone := by
  unfold Obligations.PixelCommandsLeaveTheStreamAlone
  intro s h i hi
  exact ⟨exec_pixelCommand_frame hi s, s.beginCommand_pixelCommand_frame hi h⟩

/-! ### A begun `SETPIX` -/

/-- The accesses of `SETPIX` are the writes of the four fields, in the order R, G, B, BR. -/
theorem writeTask_getElem?_of_field (h led : Nat) (p : Pixel) (a : After) {j : Nat} {f : Field}
    (hf : pixelReads[j]? = some f) :
    (writeTask h led (pixelWrites p) a).todo[j]? = some (.write f (p.get f)) := by
  show (pixelReads.map fun f => Access.write f (p.get f))[j]? = _
  rw [List.getElem?_map, hf]
  rfl

theorem State.settleTask_frame (s : State) (t : Task) : s.settleTask t = { s with tasks := (s.settleTask t).tasks } := by
  unfold State.settleTask
  split <;> rfl

/-- A step whose access is a write changes one field and its sequence's progress. -/
theorem State.advance_write {s : State} {h k : Nat} {t : Task} {f : Field} {v : Byte} (ht : s.taskOf h = some t)
    (ha : t.todo[k % t.todo.length]? = some (.write f v)) :
    (s.advance h k).pix = (s.writeField t.led f v).pix
      ∧ s.advance h k = { s with pix := (s.advance h k).pix, tasks := (s.advance h k).tasks } := by
  rw [State.advance_of_access ht ha]
  refine ⟨(State.makeAccess_write ha).1, ?_⟩
  simp only [State.makeAccess, ha]
  rw [State.settleTask_frame]
  rfl

/-- The first step of a begun `SETPIX` makes the write that `k` selects. -/
theorem State.advance_begun_setpix (s : State) (h led k : Nat) (p : Pixel) {t : State} {f : Field}
    (ht : t = s.putTask (writeTask h led (pixelWrites p) .done)) (hf : pixelReads[k % 4]? = some f) :
    (t.advance h k).pix = (s.writeField led f (p.get f)).pix
      ∧ t.advance h k = { s with pix := (t.advance h k).pix, tasks := (t.advance h k).tasks } := by
  subst ht
  exact State.advance_write (State.taskOf_putTask s (writeTask h led (pixelWrites p) .done))
    (writeTask_getElem?_of_field h led p .done hf)

/-- Settles O55: the access that `k` selects writes one field. -/
theorem begunSetpixIsTorn : Obligations.BegunSetpixIsTorn := by
  unfold Obligations.BegunSetpixIsTorn
  intro s h k idx r g b br hw _ hidx hbr
  obtain ⟨hlen, -, -⟩ := (Memory.wf_iff s).1 hw
  have hacc : s.pixelAccepted idx br = true := State.pixelAccepted_iff.2 ⟨hidx, hbr⟩
  refine ⟨s.putTask (writeTask h idx.toNat (pixelWrites ⟨r, g, b, br⟩) .done),
    congrArg Host.Outcome.next (if_pos hacc), rfl, ?_⟩
  obtain ⟨f, hf⟩ : ∃ f, pixelReads[k % 4]? = some f := ⟨_, List.getElem?_eq_getElem (Nat.mod_lt k (by decide))⟩
  obtain ⟨hpix, hframe⟩ := s.advance_begun_setpix h idx.toNat k ⟨r, g, b, br⟩ rfl hf
  refine ⟨hframe, fun f' hf' => ?_⟩
  obtain rfl : f = f' := Option.some.inj (hf.symm.trans hf')
  constructor
  · rw [State.readField_congr hpix, State.readField_writeField_same s f _ (by omega)]
  · intro j f' hne
    rw [State.readField_congr hpix, State.readField_writeField_other s _ hne]

end Sys2Proof.Machine
end

section
/-! Proofs of the statements on one step of the machine that runs a word: the word brought by a move, and the word that
`withFetchWord` places (log 13). -/

namespace Sys2Proof.Machine

theorem State.runAction_of_ok {w : CommandWord} {i : Instr} (hd : decodeCommand w = .ok i) (s : State) :
    s.runAction (.command w) = exec i s := by
  simp [State.runAction, State.runCommand, hd]

/-- A word brought whole from a context that is not busy. -/
theorem step_whole_command {s : State} (hv : s.cfg.valid = true) {h : Nat} (hb : s.busy h = false) {w : CommandWord}
    {i : Instr} (hd : decodeCommand w = .ok i) (rest : List Turn) :
    step { s with inputs := .whole h (.command w) :: rest } = exec i { s with inputs := rest } := by
  have hb' : ({ s with inputs := rest } : State).busy h = false := hb
  rw [step_of_move hv, State.takeTurn_whole hb', State.runAction_of_ok hd]

/-- Settles O7: the word decodes, and the move runs what it decodes to. -/
theorem stepRunsTheCommandAtThePort : Obligations.StepRunsTheCommandAtThePort := by
  unfold Obligations.StepRunsTheCommandAtThePort
  intro s h w i rest hv hin hb hd
  rw [← step_whole_command hv hb hd, ← hin]

/-! ### The word placed -/

theorem decode_of_decodeTableWord {nbits w : Nat} {i : Instr} (h : decodeTableWord nbits w = some i) :
    decode (portWordOfTable nbits w) = .ok i := by
  unfold decodeTableWord at h
  cases hd : decode (portWordOfTable nbits w) with
  | ok j => rw [hd] at h; exact congrArg Except.ok (Option.some.inj h)
  | error e => rw [hd] at h; cases h

theorem portWordOfTable_command {nbits : Nat} (h : 64 ≤ nbits) (w : Nat) :
    portWordOfTable nbits w = .command (BitVec.ofNat 64 w) := if_pos h

theorem portWordOfTable_event {nbits : Nat} (h : nbits < 64) (w : Nat) :
    portWordOfTable nbits w = .event (BitVec.ofNat 1 w) := if_neg (Nat.not_le.2 h)

/-- The kind of event that an event word stands for, as `withPortWord` reads it, is the instruction it decodes to. -/
theorem Event.instr_of_word (w : EventWord) :
    (if w = 0 then Event.half else Event.full).instr = decodeEvent w := by
  unfold decodeEvent
  split <;> rfl

/-- The sequencer takes a pending event. -/
theorem step_sequencer {s : State} (hv : s.cfg.valid = true) (hsrc : s.cfg.eventSource = .consumer) (e : Event)
    (rest : List Turn) :
    step { s with pending := some e, inputs := .sequencer :: rest } =
      exec e.instr { s with pending := none, inputs := rest } := by
  refine (step_of_move (s := { s with pending := some e }) hv _ rest).trans ?_
  simp [State.takeTurn, State.sequencerStep, hsrc, State.takePending]

/-- The environment injects an event. -/
theorem step_inject {s : State} (hv : s.cfg.valid = true) (hsrc : s.cfg.eventSource = .external) (e : Event)
    (rest : List Turn) : step { s with inputs := .inject e :: rest } = exec e.instr { s with inputs := rest } := by
  rw [step_of_move hv]
  simp [State.takeTurn, State.injectStep, hsrc]

theorem step_withPortWord_command {s : State} (hv : s.cfg.valid = true) {w : CommandWord} {i : Instr}
    (hd : decodeCommand w = .ok i) : step (s.withPortWord (.command w)) = exec i s :=
  step_whole_command hv s.freshHost_not_busy hd s.inputs

theorem step_withPortWord_event_consumer {s : State} (hv : s.cfg.valid = true)
    (hsrc : s.cfg.eventSource = .consumer) (w : EventWord) :
    step (s.withPortWord (.event w)) = exec (decodeEvent w) { s with pending := none } := by
  simp only [State.withPortWord, hsrc]
  rw [step_sequencer hv hsrc, Event.instr_of_word]

theorem step_withPortWord_event_external {s : State} (hv : s.cfg.valid = true)
    (hsrc : s.cfg.eventSource = .external) (w : EventWord) :
    step (s.withPortWord (.event w)) = exec (decodeEvent w) s := by
  simp only [State.withPortWord, hsrc]
  rw [step_inject hv hsrc, Event.instr_of_word]

/-- Settles O9, by the port and, for an event, by the way the configuration delivers it. -/
theorem placedWordRunsNext : Obligations.PlacedWordRunsNext := by
  unfold Obligations.PlacedWordRunsNext
  intro s nbits w i hv hd
  have hd := decode_of_decodeTableWord hd
  refine ⟨fun hn => ?_, fun hn hsrc => ?_, fun hn hsrc => ?_⟩ <;> rw [State.withFetchWord]
  · rw [portWordOfTable_command hn] at hd ⊢
    exact step_withPortWord_command hv hd
  · rw [portWordOfTable_event hn] at hd ⊢
    cases hd
    exact step_withPortWord_event_consumer hv hsrc _
  · rw [portWordOfTable_event hn] at hd ⊢
    cases hd
    exact step_withPortWord_event_external hv hsrc _

end Sys2Proof.Machine
end

section
/-! Proofs of the statements on the waveform encoder: a code of the frame is one bit of one channel's effective value
(41_waveform_encoder.md R171 to R178). -/

namespace Sys2Proof.Machine

/-! ### The frame of a pixel, by channel -/

/-- The channel of place `m` as `Pixel.ledWord_getLsbD` writes it. -/
theorem Pixel.channel_div_eight (p : Pixel) {m : Nat} (hm : m < 24) :
    p.channel (m / 8) = if m < 8 then p.r else if m < 16 then p.g else p.b := by
  unfold Pixel.channel
  by_cases hr : m < 8
  · rw [if_pos (by omega), if_pos hr]
  · by_cases hg : m < 16
    · rw [if_neg (by omega), if_pos (by omega), if_neg hr, if_pos hg]
    · rw [if_neg (by omega), if_neg (by omega), if_neg hr, if_neg hg]

theorem frameCode_ledWord (cfg : Config) (p : Pixel) {m : Nat} (hm : m < 24) :
    frameCode cfg p.ledWord m =
      if (effective (p.channel (m / 8)) p.br).getLsbD (7 - m % 8) then cfg.longCode else cfg.shortCode := by
  rw [frameCode, Pixel.ledWord_getLsbD p hm, Pixel.channel_div_eight p hm]

/-- With a brightness in range no effective value is truncated, so the frame is the one computed on naturals. -/
theorem frameCode_ledWord_eq_frameByte (cfg : Config) {p : Pixel} (hbr : p.br.toNat ≤ maxBrightness) {m : Nat}
    (hm : m < 24) : frameCode cfg p.ledWord m = frameByte cfg p m := by
  rw [frameCode_ledWord cfg p hm, ← BitVec.testBit_toNat, effective_toNat _ hbr]
  rfl

/-! ### The statements -/

/-- Settles O23: the codes are those of the frame because well-formed storage has its brightness in range. -/
theorem encodeWritesTheFrame : Obligations.EncodeWritesTheFrame := by
  unfold Obligations.EncodeWritesTheFrame
  intro s i h hw
  refine ⟨fun hi => ⟨fun k => ?_, s.encodeLed_frame i h⟩, fun hi => if_neg (Nat.not_lt.2 hi)⟩
  have hcode := frameCode_ledWord_eq_frameByte s.cfg (Memory.wf_readPixel hw i) (Nat.mod_lt k.val (by decide))
  rw [Fin.getElem_fin, s.encodeLed_tb_get i h k.val k.isLt, hcode]
  simp only [hi, and_true, Fin.getElem_fin]

/-- The code of a byte of the written half, also outside well-formed storage. -/
theorem State.encodeLed_tb_get_of_half {s : State} {i : Nat} {h : Half} {k : Fin 48} (hi : i < s.cfg.n)
    (hk : halfOf k.val = h) :
    (s.encodeLed i h).tb[k] =
      if (effective ((s.readPixel i).channel (k.val % 24 / 8)) (s.readPixel i).br).getLsbD (7 - k.val % 8)
      then s.cfg.longCode else s.cfg.shortCode := by
  have hmod : k.val % 24 % 8 = k.val % 8 := Nat.mod_mod_of_dvd _ (by decide)
  rw [Fin.getElem_fin, s.encodeLed_tb_get i h k.val k.isLt, if_pos ⟨hk, hi⟩,
    frameCode_ledWord _ _ (Nat.mod_lt _ (by decide)), hmod]

/-- No brightness or no colour is no light. -/
theorem Pixel.effective_channel_of_dark {p : Pixel} (h : p.br = 0 ∨ (p.r = 0 ∧ p.g = 0 ∧ p.b = 0)) (c : Nat) :
    effective (p.channel c) p.br = 0 := by
  rcases h with hbr | ⟨hr, hg, hb⟩
  · simp [effective, hbr]
  · have hc : p.channel c = 0 := by simp [Pixel.channel, hr, hg, hb]
    simp [effective, hc]

theorem Pixel.channel_grey (v br : Byte) (c : Nat) : (⟨v, v, v, br⟩ : Pixel).channel c = v := by
  simp [Pixel.channel]

/-- Half brightness clears the top bit of a full channel and no other: its effective value is 127. -/
theorem effective_255_50_getLsbD :
    ∀ j < 8, (effective 255 50).getLsbD (7 - j) = decide (j ≠ 0) := by decide

theorem effective_255_100_getLsbD : ∀ j < 8, (effective 255 100).getLsbD (7 - j) = true := by decide

/-- Settles O24, from the effective value that the channels have in each case: 0, 255 and 127. -/
theorem encodeCornerCases : Obligations.EncodeCornerCases := by
  unfold Obligations.EncodeCornerCases
  intro s i h k hi hk
  have hj : k.val % 8 < 8 := Nat.mod_lt _ (by decide)
  rw [State.encodeLed_tb_get_of_half hi hk]
  refine ⟨fun hdark => ?_, fun hwhite => ?_, fun hhalf => ?_⟩
  · rw [Pixel.effective_channel_of_dark hdark]
    simp
  · rw [hwhite, Pixel.channel_grey, effective_255_100_getLsbD _ hj, if_pos rfl]
  · rw [hhalf, Pixel.channel_grey, effective_255_50_getLsbD _ hj]
    simp

/-- Settles O25: the half is written with a constant code. -/
theorem zeroFillWritesIdleCodes : Obligations.ZeroFillWritesIdleCodes := by
  unfold Obligations.ZeroFillWritesIdleCodes
  intro s h
  exact ⟨fun k => s.writeHalf_tb_get h (fun _ => idleCode) k.val k.isLt, rfl⟩

end Sys2Proof.Machine
end

section
/-! Proofs of the statements on one drain event: which instruction a delivered event is, and what its handler writes, by the
phase it is accepted in (42_streaming_sequencer.md R192 to R200). -/

namespace Sys2Proof.Machine

/-! ### The instruction of an event -/

theorem Event.instr_eq_decodeEvent_bit (e : Event) : e.instr = decodeEvent e.bit := by
  cases e <;> rfl

theorem exec_decodeEvent_bit (e : Event) (s : State) : exec (decodeEvent e.bit) s = .next (s.handle e) := by
  rw [← Event.instr_eq_decodeEvent_bit, Event.exec_instr]

/-- Settles O8, by the way the configuration delivers the event. -/
theorem stepRunsTheDeliveredEvent : Obligations.StepRunsTheDeliveredEvent := by
  unfold Obligations.StepRunsTheDeliveredEvent
  intro s e rest hv
  rw [← Event.instr_eq_decodeEvent_bit]
  refine ⟨fun hsrc hp hin => ?_, fun hsrc hin => ?_⟩
  · have hs : s = { s with pending := some e, inputs := .sequencer :: rest } := by rw [← hp, ← hin]
    rw [hs]
    exact step_sequencer hv hsrc e rest
  · have hs : s = { s with inputs := .inject e :: rest } := by rw [← hin]
    rw [hs]
    exact step_inject hv hsrc e rest

/-! ### A repeated event -/

theorem State.handle_of_repeated {s : State} {e : Event} (h : s.lastEv = e) : s.handle e = s.emitObs (.desync e) :=
  if_pos h.symm

/-- Settles O29: the handler of a repeated event of either kind is its `DESYNC` record. -/
theorem repeatedEventIsOnlyLogged : Obligations.RepeatedEventIsOnlyLogged := by
  unfold Obligations.RepeatedEventIsOnlyLogged
  intro s
  exact ⟨fun h => congrArg Host.Outcome.next (State.handle_of_repeated h),
    fun h => congrArg Host.Outcome.next (State.handle_of_repeated h)⟩

/-! ### An accepted event -/

theorem State.encodeLed_tb_with_lastEv (s : State) (e : Event) (i : Nat) (h : Half) :
    (({ s with lastEv := e } : State).encodeLed i h).tb = (s.encodeLed i h).tb := by
  ext k hk
  rw [State.encodeLed_tb_get, State.encodeLed_tb_get]
  rfl

section
variable {s : State} {e : Event} (hne : s.lastEv ≠ e)
include hne

/-- An event accepted in `LED_DATA`, as one record update (42_streaming_sequencer.md R194, R195). -/
theorem State.handle_of_ledData (hp : s.phase = .ledData) :
    s.handle e = { s with
      tb := (s.encodeLed s.cursor.toNat e.vacated).tb, cursor := s.cursor + 1,
      phase := if s.cfg.n ≤ (s.cursor + 1).toNat then .resetData else .ledData,
      rcount := if s.cfg.n ≤ (s.cursor + 1).toNat then 0 else s.rcount, lastEv := e } := by
  have hh : s.handle e = ({ s with lastEv := e } : State).ledEvent e.vacated := by
    simp [State.handle, hne.symm, hp]
  rw [hh, State.ledEvent_eq, State.encodeLed_tb_with_lastEv, hp]

/-- An event accepted in `RESET_DATA`, as one record update (R194, R196, R197). -/
theorem State.handle_of_resetData (hp : s.phase = .resetData) :
    s.handle e = { s with
      tb := if s.rcount.toNat < zfillEvents then (s.zeroFill e.vacated).tb else s.tb, rcount := s.rcount + 1,
      cursor := if s.cfg.t ≤ (s.rcount + 1).toNat then 0 else s.cursor,
      phase := if s.cfg.t ≤ (s.rcount + 1).toNat then .ledData else .resetData, lastEv := e } := by
  have hh : s.handle e = ({ s with lastEv := e } : State).resetEvent e.vacated := by
    simp [State.handle, hne.symm, hp]
  rw [hh, State.resetEvent_eq, hp]
  rfl

/-- The half that an event accepted in `LED_DATA` selects holds the frame of LED `CURSOR`. -/
theorem State.handle_tb_get_of_ledData (hp : s.phase = .ledData) (hw : Memory.wf s = true)
    (hc : s.cursor.toNat < s.cfg.n) (k : Nat) (hk : k < 48) :
    (s.handle e).tb[k] =
      if halfOf k = e.vacated then frameByte s.cfg (s.readPixel s.cursor.toNat) (k % 24) else s.tb[k] := by
  have hcode := frameCode_ledWord_eq_frameByte s.cfg (Memory.wf_readPixel hw s.cursor.toNat)
    (Nat.mod_lt k (by decide : 0 < 24))
  simp only [State.handle_of_ledData hne hp, State.encodeLed_tb_get, hc, and_true, hcode]

/-- The half that an event accepted in `RESET_DATA` selects holds idle codes, while `RCOUNT` is below 2. -/
theorem State.handle_tb_get_of_resetData (hp : s.phase = .resetData) (k : Nat) (hk : k < 48) :
    (s.handle e).tb[k] = if s.rcount.toNat < 2 ∧ halfOf k = e.vacated then 0 else s.tb[k] := by
  simp only [State.handle_of_resetData hne hp]
  by_cases hr : s.rcount.toNat < 2
  · simp only [hr, true_and]
    exact s.writeHalf_tb_get e.vacated (fun _ => idleCode) k hk
  · simp only [hr, false_and, if_false]

/-- An accepted event is not logged. -/
theorem State.handle_obs_of_accepted : (s.handle e).obs = s.obs := by
  cases hp : s.phase with
  | ledData => rw [State.handle_of_ledData hne hp]
  | resetData => rw [State.handle_of_resetData hne hp]

end

/-- No event, accepted or not, writes the half it does not select. -/
theorem State.handle_tb_get_other (s : State) {e : Event} (k : Nat) (hk : k < 48) (hh : halfOf k ≠ e.vacated) :
    (s.handle e).tb[k] = s.tb[k] := by
  by_cases hne : s.lastEv = e
  · rw [State.handle_of_repeated hne]
    rfl
  · cases hp : s.phase with
    | ledData => simp only [State.handle_of_ledData hne hp, State.encodeLed_tb_get, hh, false_and, if_false]
    | resetData => simp only [State.handle_tb_get_of_resetData hne hp, hh, and_false, if_false]

/-- Settles O30: the frame is LED `CURSOR`'s, and `CURSOR + 1` does not wrap as `N` is at most 255. -/
theorem ledDataEventEncodesAndAdvances : Obligations.LedDataEventEncodesAndAdvances := by
  unfold Obligations.LedDataEventEncodesAndAdvances
  intro s e hv hw hp hc hne
  obtain ⟨-, hn, -⟩ := (Config.valid_iff s.cfg).1 hv
  have hsucc : (s.cursor + 1).toNat = s.cursor.toNat + 1 := succ_toNat (by omega)
  refine ⟨_, exec_decodeEvent_bit e s, fun k => ?_, ?_⟩
  · simp only [← halfOf_eq_vacated]
    exact State.handle_tb_get_of_ledData hne hp hw hc k.val k.isLt
  · rw [State.handle_of_ledData hne hp]
    refine ⟨hsucc, fun hend => ?_, fun hgo => ?_, rfl⟩
    · have hend' : s.cfg.n ≤ (s.cursor + 1).toNat := by omega
      exact ⟨if_pos hend', if_pos hend'⟩
    · have hgo' : ¬s.cfg.n ≤ (s.cursor + 1).toNat := by omega
      exact ⟨if_neg hgo', if_neg hgo'⟩

/-- Settles O31: the fill is tested on `RCOUNT`, the end of the phase on `RCOUNT + 1`, which does not wrap. -/
theorem resetDataEventFillsAndCounts : Obligations.ResetDataEventFillsAndCounts := by
  unfold Obligations.ResetDataEventFillsAndCounts
  intro s e hv hp hr hne
  obtain ⟨-, -, -, ht, -⟩ := (Config.valid_iff s.cfg).1 hv
  have hsucc : (s.rcount + 1).toNat = s.rcount.toNat + 1 := succ_toNat (by omega)
  refine ⟨_, exec_decodeEvent_bit e s, fun k => ?_, ?_⟩
  · simp only [← halfOf_eq_vacated]
    exact State.handle_tb_get_of_resetData hne hp k.val k.isLt
  · rw [State.handle_of_resetData hne hp]
    refine ⟨hsucc, fun hend => ?_, fun hgo => ?_, rfl⟩
    · have hend' : s.cfg.t ≤ (s.rcount + 1).toNat := by omega
      exact ⟨if_pos hend', if_pos hend'⟩
    · have hgo' : ¬s.cfg.t ≤ (s.rcount + 1).toNat := by omega
      exact ⟨if_neg hgo', if_neg hgo'⟩

/-- The half an event does not select, by byte. -/
theorem halfOf_ne_vacated (e : Event) (k : Nat) :
    halfOf k ≠ e.vacated ↔ (e = .half ∧ 24 ≤ k) ∨ (e = .full ∧ k < 24) := by
  rw [Ne, halfOf_eq_vacated]
  cases e <;> simp

/-- Settles O32, by the frame of the handler. -/
theorem handlerAlwaysCompletes : Obligations.HandlerAlwaysCompletes := by
  unfold Obligations.HandlerAlwaysCompletes
  intro s e
  exact ⟨_, exec_decodeEvent_bit e s,
    fun k hk => s.handle_tb_get_other k.val k.isLt ((halfOf_ne_vacated e k.val).2 hk), s.handle_frame e⟩

/-! ### `PRIME` -/

/-- Byte `k` after `PRIME` is of the frame of LED 0 or LED 1, by its half. -/
theorem State.primeBuffers_tb_get_frameByte {s : State} (hv : s.cfg.valid = true) (hw : Memory.wf s = true) (k : Nat)
    (hk : k < 48) : s.primeBuffers.tb[k] = frameByte s.cfg (s.readPixel (k / 24)) (k % 24) := by
  obtain ⟨hn, -⟩ := (Config.valid_iff s.cfg).1 hv
  have hcode (i : Nat) := frameCode_ledWord_eq_frameByte s.cfg (Memory.wf_readPixel hw i)
    (Nat.mod_lt k (by decide : 0 < 24))
  have h0 : 0 < s.cfg.n := by omega
  have h1 : 1 < s.cfg.n := by omega
  rw [State.primeBuffers_tb_get s k hk, hcode, hcode]
  by_cases hfirst : k < 24
  · have hdiv : k / 24 = 0 := by omega
    simp [halfOf, hfirst, h0, hdiv]
  · have hdiv : k / 24 = 1 := by omega
    simp [halfOf, hfirst, h1, hdiv]

/-- Settles O26: both LEDs exist as `N` is at least 3. -/
theorem primeEncodesTwoLeds : Obligations.PrimeEncodesTwoLeds := by
  unfold Obligations.PrimeEncodesTwoLeds
  intro s hv hw hs
  refine ⟨_, execPrime_of_not_started hs,
    fun k => State.primeBuffers_tb_get_frameByte hv hw k.val k.isLt, ?_⟩
  rw [State.primeBuffers_eq]

end Sys2Proof.Machine
end

section
/-! Proofs of the statements on the stream invariant: where the consumer is, which event is pending and which was accepted
last keep fitting together until an overrun (43_transfer_consumer.md R235, 42_streaming_sequencer.md R201). -/

namespace Sys2Proof.Machine

/-! ### The events of the alternation -/

theorem drainPoint_cases (rd : Fin 48) :
    (rd.val = 23 ∧ drainPoint rd = some .half) ∨ (rd.val = 47 ∧ drainPoint rd = some .full)
      ∨ (rd.val ≠ 23 ∧ rd.val ≠ 47 ∧ drainPoint rd = none) := by
  by_cases h23 : rd.val = 23
  · simp [drainPoint, h23]
  · by_cases h47 : rd.val = 47 <;> simp [drainPoint, h23, h47]

/-- A pending event is not the last accepted one, and the consumer has left the half it vacates. -/
theorem State.alternation.of_pending {s : State} {e : Event} (h : s.alternation) (hp : s.pending = some e) :
    s.lastEv ≠ e ∧ halfOf s.rd.val ≠ e.vacated := by
  rw [halfOf_ne_vacated]
  cases e <;> simp only [State.alternation, hp] at h <;> obtain ⟨hrd, hlast⟩ := h
  · exact ⟨by simp [hlast], .inl ⟨rfl, hrd⟩⟩
  · exact ⟨by simp [hlast], .inr ⟨rfl, hrd⟩⟩

/-- Nothing pending, with `RD` outside the half that the last accepted event vacated. -/
theorem State.alternation.of_none {s : State} (hp : s.pending = none) (h : halfOf s.rd.val ≠ s.lastEv.vacated) :
    s.alternation := by
  simp only [State.alternation, hp]
  rcases (halfOf_ne_vacated s.lastEv s.rd.val).1 h with ⟨he, hrd⟩ | ⟨he, hrd⟩
  · rw [if_neg (by omega), he]
  · rw [if_pos hrd, he]

/-- Handling the pending event keeps the alternation (R192). -/
theorem State.alternation.takePending_handle {s : State} {e : Event} (h : s.alternation) (hp : s.pending = some e) :
    (s.takePending.handle e).alternation := by
  obtain ⟨-, hrd⟩ := h.of_pending hp
  refine .of_none (by simp) ?_
  rw [State.handle_lastEv, State.handle_rd]
  exact hrd

/-- The consumer's step with nothing pending: no overrun, and at a drain point its event becomes pending (R233, R234). -/
theorem State.consume_of_pending_none {s : State} (hp : s.pending = none) :
    s.consume = { s with
      wire := s.wire ++ [s.readTB s.rd], rd := s.rd + 1, pending := drainPoint s.rd } := by
  rw [State.consume_eq]
  cases hd : drainPoint s.rd <;> simp [hp]

/-- The consumer's step off the drain points (R233). -/
theorem State.consume_of_drainPoint_none {s : State} (hd : drainPoint s.rd = none) :
    s.consume = { s with wire := s.wire ++ [s.readTB s.rd], rd := s.rd + 1 } := by
  rw [State.consume_eq]
  simp [hd]

/-- At a drain point a pending event is overrun (R234). -/
theorem State.consume_overruns {s : State} {e e' : Event} (hd : drainPoint s.rd = some e) (hp : s.pending = some e') :
    s.consume.fEventOverrun = true := by
  simp [State.consume_eq, hd, hp]

/-- A consumer step without an overrun keeps the alternation: off the drain points `RD` stays in its half, and at one the
event raised is the one whose half `RD` leaves (R235). -/
theorem State.alternation.consume {s : State} (h : s.alternation) (ho : s.consume.fEventOverrun = false) :
    s.consume.alternation := by
  have hpending {e : Event} (hd : drainPoint s.rd = some e) : s.pending = none := by
    cases hp : s.pending with
    | none => rfl
    | some e' => simp [State.consume_overruns hd hp] at ho
  rcases drainPoint_cases s.rd with ⟨hrd, hd⟩ | ⟨hrd, hd⟩ | ⟨h23, h47, hd⟩
  · have hlast : s.lastEv = .full := by simpa [State.alternation, hpending hd, hrd] using h
    rw [State.consume_of_pending_none (hpending hd), hd]
    exact ⟨by rw [rd_succ_val, hrd], hlast⟩
  · have hlast : s.lastEv = .half := by simpa [State.alternation, hpending hd, hrd] using h
    rw [State.consume_of_pending_none (hpending hd), hd]
    exact ⟨by rw [rd_succ_val, hrd]; decide, hlast⟩
  · have hside : (s.rd + 1).val < 24 ↔ s.rd.val < 24 := by
      rw [rd_succ_val]
      omega
    rw [State.consume_of_drainPoint_none hd]
    simpa only [State.alternation, ← Nat.not_lt, hside] using h

/-! ### The invariant -/

theorem State.consumerInv.started_of_pending {s : State} {e : Event} (h : s.consumerInv) (hp : s.pending = some e) :
    s.started = true := by
  obtain ⟨-, hstopped, -⟩ := h
  by_contra hs
  obtain ⟨-, hnone, -⟩ := hstopped (by simpa using hs)
  simp [hp] at hnone

/-- The invariant of a stream that has started. -/
theorem State.consumerInv.of_started {s : State} (hs : s.started = true) (hp : s.primed = true)
    (h : s.fEventOverrun = false → s.alternation) : s.consumerInv :=
  ⟨fun _ => hp, by simp [hs], fun _ => h⟩

/-- The handler, where an event is pending. -/
theorem State.consumerInv.takePending_handle {s : State} {e : Event} (h : s.consumerInv) (hp : s.pending = some e) :
    (s.takePending.handle e).consumerInv := by
  have hs := h.started_of_pending hp
  obtain ⟨hprimed, -, halt⟩ := h
  exact .of_started (by simpa using hs) (by simpa using hprimed hs)
    (fun ho => (halt hs (by simpa using ho)).takePending_handle hp)

/-- The consumer's step, where the stream has started. An overrun before the step is still there after it. -/
theorem State.consumerInv.consume {s : State} (h : s.consumerInv) (hs : s.started = true) : s.consume.consumerInv := by
  obtain ⟨hprimed, -, halt⟩ := h
  refine .of_started (by simpa using hs) (by simpa using hprimed hs) (fun ho => ?_)
  have ho' : s.fEventOverrun = false := by
    by_contra hc
    simp [s.consume_keepsSticky.fEventOverrun (by simpa using hc)] at ho
  exact (halt hs ho').consume ho

/-- Every effect of a move keeps the invariant of the `CONSUMER` configuration. -/
theorem State.Effect.consumerInv {s t : State} {m : Turn} (he : s.Effect m t) (hc : s.cfg.eventSource = .consumer)
    (h : s.consumerInv) : t.consumerInv := by
  cases he with
  | host hh => rw [hh.frame]; exact h
  | refuse | protocolFault => exact h
  | prime _ hs =>
    obtain ⟨-, hstopped, -⟩ := h
    obtain ⟨hrd, hp, hw, -, ho⟩ := hstopped hs
    rw [State.primeBuffers_eq]
    exact ⟨fun _ => rfl, fun _ => ⟨hrd, hp, hw, rfl, ho⟩, fun hst => by simp [hs] at hst⟩
  | start _ hs hprimed =>
    obtain ⟨-, hstopped, -⟩ := h
    obtain ⟨-, hp, -, hlast, -⟩ := hstopped hs
    have hfirst : halfOf (0 : Fin 48).val ≠ Event.full.vacated := by decide
    exact .of_started rfl hprimed (fun _ => .of_none hp (hlast ▸ hfirst))
  | sequencer _ _ hp => exact h.takePending_handle hp
  | consumer _ hen => exact h.consume (State.consumerEnabled_iff.1 hen).1
  | inject _ hx => simp [hc] at hx

/-- Settles O38: the effects of a move, in each of the two configurations. -/
theorem streamInvariantIsKept : Obligations.StreamInvariantIsKept := by
  unfold Obligations.StreamInvariantIsKept
  intro s t h hstep
  obtain ⟨-, l, he⟩ := step_effect hstep
  have hcfg := (step_keepsSticky hstep).cfg
  cases hsrc : s.cfg.eventSource with
  | consumer =>
    simp only [State.streamInv, hcfg, hsrc] at h ⊢
    exact he.consumerInv hsrc h
  | external =>
    simp only [State.streamInv, hcfg, hsrc] at h ⊢
    exact he.externalInv hsrc h

/-- Settles O43: the invariant puts `RD` outside the half that the pending event vacates, and no handler writes outside
that half. -/
theorem handlerNeverWritesTheDrainingHalf : Obligations.HandlerNeverWritesTheDrainingHalf := by
  unfold Obligations.HandlerNeverWritesTheDrainingHalf
  intro s e rest hv hsrc hinv ho hp hin
  have hcons : s.consumerInv := by simpa only [State.streamInv, hsrc] using hinv
  have hs := hcons.started_of_pending hp
  obtain ⟨-, -, halt⟩ := hcons
  obtain ⟨hne, hrd⟩ := (halt hs ho).of_pending hp
  obtain ⟨hhalf, hfull⟩ : (e = .half → 24 ≤ s.rd.val) ∧ (e = .full → s.rd.val < 24) := by
    rcases (halfOf_ne_vacated e s.rd.val).1 hrd with ⟨rfl, h⟩ | ⟨rfl, h⟩
    · exact ⟨fun _ => h, nofun⟩
    · exact ⟨nofun, fun _ => h⟩
  obtain ⟨hdeliver, -⟩ := stepRunsTheDeliveredEvent s e rest hv
  refine ⟨_, (hdeliver hsrc hp hin).trans (exec_decodeEvent_bit e _), State.handle_lastEv _ e,
    State.handle_obs_of_accepted hne, hhalf, hfull, fun k hk => ?_⟩
  have hsame : halfOf k.val = halfOf s.rd.val := by simp only [halfOf, hk]
  exact State.handle_tb_get_other _ k.val k.isLt (hsame ▸ hrd)

end Sys2Proof.Machine
end

section
/-! Proof of the statement on the event counts of the frame cycle: `N + T` places, of which each accepted event goes on to
the next (42_streaming_sequencer.md R203). -/

namespace Sys2Proof.Machine

/-- The sequencer is at place `m` of the frame cycle: at LED `m` below `N`, then `m - N` events into the latch phase. -/
def State.AtPlace (s : State) (m : Nat) : Prop :=
  (m < s.cfg.n → s.phase = .ledData ∧ s.cursor.toNat = m)
    ∧ (s.cfg.n ≤ m → s.phase = .resetData ∧ s.cursor.toNat = s.cfg.n ∧ s.rcount.toNat = m - s.cfg.n)

section
variable {s : State} {m : Nat}

theorem State.AtPlace.of_ledData (hp : s.phase = .ledData) (hm : m < s.cfg.n) (hc : s.cursor.toNat = m) :
    s.AtPlace m :=
  ⟨fun _ => ⟨hp, hc⟩, fun h => absurd hm (Nat.not_lt.2 h)⟩

theorem State.AtPlace.of_resetData (hp : s.phase = .resetData) (hm : s.cfg.n ≤ m) (hc : s.cursor.toNat = s.cfg.n)
    (hr : s.rcount.toNat = m - s.cfg.n) : s.AtPlace m :=
  ⟨fun h => absurd hm (Nat.not_le.2 h), fun _ => ⟨hp, hc, hr⟩⟩

theorem State.atPlace_primeBuffers (hv : s.cfg.valid = true) : s.primeBuffers.AtPlace 2 := by
  obtain ⟨hn, -⟩ := (Config.valid_iff s.cfg).1 hv
  rw [State.primeBuffers_eq]
  exact .of_ledData rfl (show 2 < s.cfg.n by omega) rfl

section
variable (h : s.AtPlace m) (hv : s.cfg.valid = true) {e : Event} (hne : s.lastEv ≠ e)
include h hv hne

/-- An event accepted at LED `m` goes on to LED `m + 1`, or to the latch phase (R195). -/
theorem State.AtPlace.handle_led (hm : m < s.cfg.n) : (s.handle e).AtPlace (m + 1) := by
  obtain ⟨-, hn, -⟩ := (Config.valid_iff s.cfg).1 hv
  obtain ⟨hled, -⟩ := h
  obtain ⟨hp, hc⟩ := hled hm
  have hsucc : (s.cursor + 1).toNat = m + 1 := by rw [succ_toNat (by omega), hc]
  rw [State.handle_of_ledData hne hp]
  by_cases hend : s.cfg.n ≤ (s.cursor + 1).toNat
  · simp only [if_pos hend]
    refine .of_resetData rfl (hsucc ▸ hend) (show (s.cursor + 1).toNat = s.cfg.n by omega) ?_
    show 0 = m + 1 - s.cfg.n
    omega
  · simp only [if_neg hend]
    exact .of_ledData rfl (show m + 1 < s.cfg.n by omega) hsucc

/-- An event accepted in the latch phase goes on within it, or to LED 0 (R196, R197). -/
theorem State.AtPlace.handle_latch (hm : s.cfg.n ≤ m) (hlt : m < s.cfg.n + s.cfg.t) :
    (s.handle e).AtPlace ((m + 1) % (s.cfg.n + s.cfg.t)) := by
  obtain ⟨hn, -, -, ht, -⟩ := (Config.valid_iff s.cfg).1 hv
  obtain ⟨-, hlatch⟩ := h
  obtain ⟨hp, hc, hr⟩ := hlatch hm
  have hsucc : (s.rcount + 1).toNat = m - s.cfg.n + 1 := by rw [succ_toNat (by omega), hr]
  rw [State.handle_of_resetData hne hp]
  by_cases hend : s.cfg.t ≤ (s.rcount + 1).toNat
  · simp only [if_pos hend]
    have hlast : m + 1 = s.cfg.n + s.cfg.t := by omega
    rw [hlast, Nat.mod_self]
    exact .of_ledData rfl (show 0 < s.cfg.n by omega) rfl
  · simp only [if_neg hend]
    rw [Nat.mod_eq_of_lt (by omega)]
    refine .of_resetData rfl (show s.cfg.n ≤ m + 1 by omega) hc (hsucc.trans ?_)
    show m - s.cfg.n + 1 = m + 1 - s.cfg.n
    omega

/-- An accepted event goes on to the next place. -/
theorem State.AtPlace.handle (hlt : m < s.cfg.n + s.cfg.t) :
    (s.handle e).AtPlace ((m + 1) % (s.cfg.n + s.cfg.t)) := by
  by_cases hm : m < s.cfg.n
  · obtain ⟨-, -, ht, -⟩ := (Config.valid_iff s.cfg).1 hv
    rw [Nat.mod_eq_of_lt (by omega)]
    exact h.handle_led hv hne hm
  · exact h.handle_latch hv hne (Nat.le_of_not_lt hm) hlt

end

end

theorem Event.ne_other (e : Event) : e ≠ e.other := by
  cases e <;> decide

theorem State.acceptedEvents_cfg (s : State) (k : Nat) : (s.acceptedEvents k).cfg = s.cfg := by
  induction k with
  | zero => rfl
  | succ k ih => rw [State.acceptedEvents, State.handle_cfg, ih]

/-- After `k` accepted events the sequencer is `k` places further. -/
theorem State.AtPlace.acceptedEvents {s : State} {m : Nat} (h : s.AtPlace (m % (s.cfg.n + s.cfg.t)))
    (hv : s.cfg.valid = true) (k : Nat) : (s.acceptedEvents k).AtPlace ((k + m) % (s.cfg.n + s.cfg.t)) := by
  obtain ⟨hn, -⟩ := (Config.valid_iff s.cfg).1 hv
  induction k with
  | zero => rwa [Nat.zero_add]
  | succ k ih =>
    have hcfg := s.acceptedEvents_cfg k
    rw [← hcfg] at ih hv hn ⊢
    have hnext := ih.handle hv (Event.ne_other _) (Nat.mod_lt _ (by omega))
    rwa [Nat.mod_add_mod, Nat.add_right_comm] at hnext

/-- Settles O51: `PRIME` is place 2 of the cycle, and each accepted event goes on to the next. -/
theorem eventCountsOfTheFrameCycle : Obligations.EventCountsOfTheFrameCycle := by
  unfold Obligations.EventCountsOfTheFrameCycle
  intro s p k hv hs hprime
  obtain rfl : s.primeBuffers = p := Host.Outcome.next.inj ((execPrime_of_not_started hs).symm.trans hprime)
  obtain ⟨hn, -⟩ := (Config.valid_iff s.cfg).1 hv
  have hcfg := s.primeBuffers_cfg
  have hstart : s.primeBuffers.AtPlace (2 % (s.primeBuffers.cfg.n + s.primeBuffers.cfg.t)) := by
    rw [hcfg, Nat.mod_eq_of_lt (by omega)]
    exact State.atPlace_primeBuffers hv
  have hk := hstart.acceptedEvents (hcfg ▸ hv) k
  rw [State.AtPlace, State.acceptedEvents_cfg, hcfg] at hk
  exact hk

end Sys2Proof.Machine
end

section
/-! The eager schedule (log 5) with a quiet host: a half of the buffer takes 24 consumer steps and the step of its event's
handler. -/

namespace Sys2Proof.Machine

/-! ### A quiet host -/

/-- An admitted `CONSUMER` configuration, started, with no host sequence and no move in store. -/
structure State.Eager (s : State) : Prop where
  valid : s.cfg.valid = true
  source : s.cfg.eventSource = .consumer
  started : s.started = true
  tasks : s.tasks = []
  inputs : s.inputs = []

section
variable {s : State} (h : s.Eager)
include h

/-- The eager schedule with nothing pending: the consumer. -/
theorem State.Eager.step_consumer (hp : s.pending = none) : step s = .next s.consume := by
  have hmove : s.nextMove = (.consumer, s) := by
    simp [State.nextMove, State.defaultTurn, h.inputs, h.tasks, hp]
  rw [step_of_valid h.valid, hmove]
  simp [State.takeTurn, State.consumerStep, State.consumerEnabled, h.started, h.source]

/-- The eager schedule with an event pending: the sequencer. -/
theorem State.Eager.step_sequencer {e : Event} (hp : s.pending = some e) :
    step s = .next (s.takePending.handle e) := by
  have hmove : s.nextMove = (.sequencer, s) := by
    simp [State.nextMove, State.defaultTurn, h.inputs, h.source, hp]
  rw [step_of_valid h.valid, hmove]
  simp [State.takeTurn, State.sequencerStep, h.source, hp, Event.exec_instr]

end

/-- A run of `a` steps carried on by a run of `b`. -/
theorem core_run_add {a b : Nat} {s t u : State} (ha : core.run a s = .next t) (hb : core.run b t = .next u) :
    core.run (a + b) s = .next u := by
  induction a generalizing s with
  | zero => cases ha; rwa [Nat.zero_add]
  | succ a ih =>
    obtain ⟨s', hstep, hrun⟩ := core_run_succ.1 ha
    rw [Nat.add_right_comm]
    exact core_run_succ.2 ⟨s', hstep, ih hrun⟩

theorem core_run_one {s t : State} (h : step s = .next t) : core.run 1 s = .next t :=
  core_run_succ.2 ⟨t, h, rfl⟩

/-! ### One half drained -/

/-- The first byte of the half an event vacates. -/
def Event.firstByte : Event → Fin 48
  | .half => 0
  | .full => 24

/-- Byte `m` of the half an event vacates. -/
def Event.byte (e : Event) (m : Nat) : Fin 48 := e.firstByte + Fin.ofNat 48 m

theorem Event.byte_succ (e : Event) (m : Nat) : e.byte m + 1 = e.byte (m + 1) := by
  apply Fin.ext
  simp only [Event.byte, Fin.val_add, Fin.val_ofNat]
  have h1 : (1 : Fin 48).val = 1 := rfl
  omega

theorem Event.byte_zero (e : Event) : e.byte 0 = e.firstByte := by cases e <;> rfl

theorem Event.byte_halfLen (e : Event) : e.byte 24 = e.other.firstByte := by cases e <;> rfl

/-- The half's event is raised at its last byte and nowhere before (43_transfer_consumer.md R233). -/
theorem Event.drainPoint_byte (e : Event) : ∀ m < 24, drainPoint (e.byte m) = if m = 23 then some e else none := by
  cases e <;> decide

theorem Event.halfOf_byte (e : Event) : ∀ m < 24, halfOf (e.byte m).val = e.vacated ∧ (e.byte m).val % 24 = m := by
  cases e <;> decide

/-- `s` when `m` codes of the half of `e` have been drained; the last of them raises `e`. -/
def State.drained (s : State) (e : Event) (m : Nat) : State :=
  { s with
    wire := s.wire ++ (List.range m).map (fun i => s.readTB (e.byte i)), rd := e.byte m,
    pending := if m = 24 then some e else none }

theorem State.drained_consume (s : State) (e : Event) {m : Nat} (hm : m < 24) :
    (s.drained e m).consume = s.drained e (m + 1) := by
  rw [State.consume_of_pending_none (if_neg (by omega)), State.drained, e.drainPoint_byte m hm]
  simp [State.drained, Event.byte_succ, List.range_succ, State.readTB]

theorem State.Eager.drained {s : State} (h : s.Eager) (e : Event) (m : Nat) : (s.drained e m).Eager :=
  ⟨h.valid, h.source, h.started, h.tasks, h.inputs⟩

section
variable {s : State} (h : s.Eager) (hp : s.pending = none) {e : Event} (hrd : s.rd = e.firstByte)
include h hp hrd

theorem State.Eager.run_drained {m : Nat} (hm : m ≤ 24) : core.run m s = .next (s.drained e m) := by
  induction m with
  | zero => simp [State.drained, Event.byte_zero, ← hrd, ← hp, Host.Core.run]
  | succ m ih =>
    have hstep := (h.drained e m).step_consumer (if_neg (by omega))
    rw [State.drained_consume s e hm] at hstep
    exact core_run_add (ih (by omega)) (core_run_one hstep)

/-- A half takes 25 steps: 24 codes to the wire, and the handler of the event raised at the last. -/
theorem State.Eager.run_half : core.run 25 s = .next ((s.drained e 24).takePending.handle e) :=
  core_run_add (h.run_drained hp hrd le_rfl) (core_run_one ((h.drained e 24).step_sequencer rfl))

end

end Sys2Proof.Machine
end

section
/-! Proof of the statement on the wire: at the start of each half the buffer holds the codes of that half and of the next,
and the handler refills the half just drained for the half after those (42_streaming_sequencer.md R202). -/

namespace Sys2Proof.Machine

/-! ### Refilling a half -/

/-- Code `m` of wire half `j` (R202). -/
def wireCode (cfg : Config) (pix : Nat → Pixel) (j m : Nat) : Byte :=
  if j % (cfg.n + cfg.t) < cfg.n then frameByte cfg (pix (j % (cfg.n + cfg.t))) m else 0

theorem wireHalf_eq (cfg : Config) (pix : Nat → Pixel) (j : Nat) :
    wireHalf cfg pix j = (List.range 24).map (wireCode cfg pix j) := rfl

/-- Two places before the third event of the latch phase the cycle is in that phase already. -/
theorem le_mod_of_le_add_two_mod {j n p : Nat} (h : n + 2 ≤ (j + 2) % p) : n ≤ j % p := by
  have hle : (j % p + 2) % p ≤ j % p + 2 := Nat.mod_le _ _
  rw [Nat.mod_add_mod] at hle
  omega

/-- An event accepted at place `j + 2` refills its half, which held wire half `j`, for wire half `j + 2`: past the second
idle half no write is needed (R196). -/
theorem State.AtPlace.handle_tb_get {s : State} {j : Nat} (h : s.AtPlace ((j + 2) % (s.cfg.n + s.cfg.t)))
    (hw : Memory.wf s = true) {e : Event} (hne : s.lastEv ≠ e) {k : Nat} (hk : k < 48) (hh : halfOf k = e.vacated)
    (htb : s.tb[k] = wireCode s.cfg s.readPixel j (k % 24)) :
    (s.handle e).tb[k] = wireCode s.cfg s.readPixel (j + 2) (k % 24) := by
  obtain ⟨hled, hlatch⟩ := h
  by_cases hm : (j + 2) % (s.cfg.n + s.cfg.t) < s.cfg.n
  · obtain ⟨hp, hc⟩ := hled hm
    rw [State.handle_tb_get_of_ledData hne hp hw (hc ▸ hm) k hk, if_pos hh, hc, wireCode, if_pos hm]
  · obtain ⟨hp, -, hr⟩ := hlatch (Nat.le_of_not_lt hm)
    rw [State.handle_tb_get_of_resetData hne hp k hk, wireCode, if_neg hm]
    by_cases hfill : s.rcount.toNat < 2
    · rw [if_pos ⟨hfill, hh⟩]
    · have hidle := le_mod_of_le_add_two_mod (show s.cfg.n + 2 ≤ (j + 2) % (s.cfg.n + s.cfg.t) by omega)
      rw [if_neg (fun hc => hfill hc.1), htb, wireCode, if_neg (Nat.not_lt.2 hidle)]

/-- The event that ends wire half `j`. -/
def halfEvent (j : Nat) : Event := if j % 2 = 0 then .half else .full

theorem halfEvent_succ (j : Nat) : halfEvent (j + 1) = (halfEvent j).other := by
  unfold halfEvent
  by_cases h : j % 2 = 0
  · rw [if_neg (by omega), if_pos h]; rfl
  · rw [if_pos (by omega), if_neg h]; rfl

theorem halfOf_eq_vacated_other (e : Event) (k : Nat) : halfOf k = e.other.vacated ↔ halfOf k ≠ e.vacated := by
  rw [halfOf_ne_vacated, halfOf_eq_vacated]
  cases e <;> simp [Event.other]

/-! ### From one half to the next -/

/-- `s` is at the start of wire half `j`: the half to be drained holds the codes of wire half `j`, the other half those of
`j + 1`, and the sequencer is at place `j + 2` of the frame cycle. -/
structure State.AtHalf (s : State) (j : Nat) : Prop where
  eager : s.Eager
  wf : Memory.wf s = true
  pending : s.pending = none
  rd : s.rd = (halfEvent j).firstByte
  lastEv : s.lastEv = (halfEvent j).other
  place : s.AtPlace ((j + 2) % (s.cfg.n + s.cfg.t))
  draining : ∀ k (hk : k < 48), halfOf k = (halfEvent j).vacated → s.tb[k] = wireCode s.cfg s.readPixel j (k % 24)
  waiting : ∀ k (hk : k < 48), halfOf k ≠ (halfEvent j).vacated →
    s.tb[k] = wireCode s.cfg s.readPixel (j + 1) (k % 24)

/-- `s` after wire half `j`. -/
def State.afterHalf (s : State) (j : Nat) : State :=
  ((s.drained (halfEvent j) 24).takePending).handle (halfEvent j)

section
variable (s : State) (j : Nat)

theorem State.afterHalf_cfg : (s.afterHalf j).cfg = s.cfg := State.handle_cfg ..

theorem State.afterHalf_pix : (s.afterHalf j).pix = s.pix := State.handle_pix ..

theorem State.afterHalf_fEventOverrun : (s.afterHalf j).fEventOverrun = s.fEventOverrun := State.handle_fEventOverrun ..

end

theorem State.readPixel_eq_of_pix {s t : State} (h : t.pix = s.pix) : t.readPixel = s.readPixel :=
  funext (State.readPixel_congr h)

namespace State.AtHalf
variable {s : State} {j : Nat} (h : s.AtHalf j)
include h

theorem lastEv_ne : s.lastEv ≠ halfEvent j := by
  rw [h.lastEv]
  exact (Event.ne_other _).symm

/-- The codes drained are those of wire half `j`. -/
theorem afterHalf_wire : (s.afterHalf j).wire = s.wire ++ wireHalf s.cfg s.readPixel j := by
  rw [State.afterHalf, State.handle_wire, wireHalf_eq]
  refine congrArg (s.wire ++ ·) (List.map_congr_left fun m hm => ?_)
  obtain ⟨hh, hmod⟩ := (halfEvent j).halfOf_byte m (List.mem_range.1 hm)
  refine (h.draining _ ((halfEvent j).byte m).isLt hh).trans ?_
  rw [hmod]

theorem afterHalf_eager : (s.afterHalf j).Eager where
  valid := (s.afterHalf_cfg j).symm ▸ h.eager.valid
  source := (s.afterHalf_cfg j).symm ▸ h.eager.source
  started := (State.handle_started ..).trans h.eager.started
  tasks := (State.handle_tasks ..).trans h.eager.tasks
  inputs := (State.handle_inputs ..).trans h.eager.inputs

theorem afterHalf_place : (s.afterHalf j).AtPlace ((j + 1 + 2) % (s.cfg.n + s.cfg.t)) := by
  obtain ⟨hn, -⟩ := (Config.valid_iff s.cfg).1 h.eager.valid
  have hplace : (s.drained (halfEvent j) 24).takePending.AtPlace ((j + 2) % (s.cfg.n + s.cfg.t)) := h.place
  have hnext := hplace.handle h.eager.valid h.lastEv_ne (Nat.mod_lt _ (show 0 < s.cfg.n + s.cfg.t by omega))
  rwa [show (s.drained (halfEvent j) 24).takePending.cfg = s.cfg from rfl, Nat.mod_add_mod,
    Nat.add_right_comm] at hnext

/-- After wire half `j` its half of the buffer is refilled for wire half `j + 2`, and the consumer goes on to the other. -/
theorem afterHalf_atHalf : (s.afterHalf j).AtHalf (j + 1) where
  eager := h.afterHalf_eager
  wf := (Memory.wf_congr (s.afterHalf_cfg j) (s.afterHalf_pix j) (State.handle_fade ..)).trans h.wf
  pending := State.handle_pending ..
  rd := by
    rw [halfEvent_succ, ← Event.byte_halfLen]
    exact State.handle_rd ..
  lastEv := by
    rw [halfEvent_succ, State.afterHalf, State.handle_lastEv]
    cases halfEvent j <;> rfl
  place := (s.afterHalf_cfg j).symm ▸ h.afterHalf_place
  draining k hk hh := by
    rw [halfEvent_succ, halfOf_eq_vacated_other] at hh
    rw [s.afterHalf_cfg, State.readPixel_eq_of_pix (s.afterHalf_pix j)]
    exact (State.handle_tb_get_other _ k hk hh).trans (h.waiting k hk hh)
  waiting k hk hh := by
    rw [halfEvent_succ, Ne, halfOf_eq_vacated_other, not_not] at hh
    rw [s.afterHalf_cfg, State.readPixel_eq_of_pix (s.afterHalf_pix j)]
    exact State.AtPlace.handle_tb_get (s := (s.drained (halfEvent j) 24).takePending) h.place h.wf h.lastEv_ne hk hh
      (h.draining k hk hh)

theorem run_half : core.run 25 s = .next (s.afterHalf j) := h.eager.run_half h.pending h.rd

end State.AtHalf

/-- `t` has gone on from `s`, at the start of the stream, by `j` wire halves. -/
structure State.Streamed (s : State) (j : Nat) (t : State) : Prop where
  atHalf : t.AtHalf j
  cfg : t.cfg = s.cfg
  pix : t.pix = s.pix
  wire : t.wire = s.wire ++ (List.range j).flatMap (wireHalf s.cfg s.readPixel)
  fEventOverrun : t.fEventOverrun = s.fEventOverrun

theorem State.Streamed.next {s t : State} {j : Nat} (h : s.Streamed j t) : s.Streamed (j + 1) (t.afterHalf j) where
  atHalf := h.atHalf.afterHalf_atHalf
  cfg := (t.afterHalf_cfg j).trans h.cfg
  pix := (t.afterHalf_pix j).trans h.pix
  wire := by
    rw [h.atHalf.afterHalf_wire, h.cfg, State.readPixel_eq_of_pix h.pix, h.wire]
    simp [List.range_succ]
  fEventOverrun := (t.afterHalf_fEventOverrun j).trans h.fEventOverrun

theorem State.AtHalf.run_halves {s : State} (h : s.AtHalf 0) (j : Nat) :
    ∃ t, core.run (25 * j) s = .next t ∧ s.Streamed j t := by
  induction j with
  | zero => exact ⟨s, rfl, h, rfl, rfl, by simp, rfl⟩
  | succ j ih =>
    obtain ⟨t, hrun, ht⟩ := ih
    exact ⟨_, core_run_add hrun ht.atHalf.run_half, ht.next⟩

/-! ### From the start of the stream -/

theorem execStart_of_primed {s : State} (hs : s.started = false) (hp : s.primed = true) :
    exec .start s = .next { s with started := true, rd := 0 } := by
  simp [exec, execStart, hs, hp]

/-- The start of the stream: `PRIME`, then `START`, with a quiet host. -/
theorem State.atHalf_of_primed {s : State} (hv : s.cfg.valid = true) (hsrc : s.cfg.eventSource = .consumer)
    (hw : Memory.wf s = true) (hp : s.pending = none) (ht : s.tasks = []) (hi : s.inputs = []) :
    ({ s.primeBuffers with started := true, rd := 0 } : State).AtHalf 0 := by
  obtain ⟨hn, -⟩ := (Config.valid_iff s.cfg).1 hv
  have hcode (k i : Nat) (hk : k < 48) (hdiv : k / 24 = i) :
      s.primeBuffers.tb[k] = wireCode s.primeBuffers.cfg s.primeBuffers.readPixel i (k % 24) := by
    have hplace : i % (s.cfg.n + s.cfg.t) = i := Nat.mod_eq_of_lt (by omega)
    rw [State.primeBuffers_tb_get_frameByte hv hw k hk, s.primeBuffers_cfg,
      State.readPixel_eq_of_pix s.primeBuffers_pix, wireCode, hplace, if_pos (by omega), hdiv]
  have hfirst (k : Nat) : halfOf k = (halfEvent 0).vacated ↔ k < 24 := (halfOf_eq_vacated .half k).trans (by simp)
  have hcfg := s.primeBuffers_cfg
  exact {
    eager := ⟨hcfg ▸ hv, hcfg ▸ hsrc, rfl, s.primeBuffers_tasks.trans ht, s.primeBuffers_inputs.trans hi⟩
    wf := (Memory.wf_congr hcfg s.primeBuffers_pix s.primeBuffers_fade).trans hw
    pending := s.primeBuffers_pending.trans hp
    rd := rfl
    lastEv := congrArg State.lastEv s.primeBuffers_eq
    place := by
      have hplace : 2 % (s.cfg.n + s.cfg.t) = 2 := Nat.mod_eq_of_lt (by omega)
      rw [Nat.zero_add, hcfg, hplace]
      exact State.atPlace_primeBuffers hv
    draining := fun k hk hh => hcode k 0 hk (Nat.div_eq_of_lt ((hfirst k).1 hh))
    waiting := fun k hk hh => hcode k 1 hk (by
      have hk' : ¬k < 24 := mt (hfirst k).2 hh
      omega) }

/-- Settles O52: `j` halves from the start of the stream. -/
theorem wireCarriesTheFrames : Obligations.WireCarriesTheFrames := by
  unfold Obligations.WireCarriesTheFrames
  intro s p q j hv hsrc hw hs hp ht hi hprime hstart
  obtain rfl : s.primeBuffers = p := Host.Outcome.next.inj ((execPrime_of_not_started hs).symm.trans hprime)
  have hprimed : s.primeBuffers.primed = true := congrArg State.primed s.primeBuffers_eq
  obtain rfl := Host.Outcome.next.inj
    ((execStart_of_primed (s.primeBuffers_started.trans hs) hprimed).symm.trans hstart)
  obtain ⟨t, hrun, hst⟩ := (State.atHalf_of_primed hv hsrc hw hp ht hi).run_halves j
  refine ⟨t, hrun, hst.wire.trans ?_, hst.fEventOverrun.trans s.primeBuffers_fEventOverrun⟩
  dsimp only
  rw [s.primeBuffers_wire, s.primeBuffers_cfg]
  exact congrArg (fun pix => s.wire ++ (List.range j).flatMap (wireHalf s.cfg pix))
    (State.readPixel_eq_of_pix s.primeBuffers_pix)

end Sys2Proof.Machine
end

section
/-! Proofs of the statements on `START` and on one step of the consumer: a consumer move is `CONSUME` where it is enabled and
passes where it is not (43_transfer_consumer.md R231 to R234, log 4). -/

namespace Sys2Proof.Machine

/-- Settles O28: `START` where neither violation of the start protocol stands. -/
theorem startStartsTheConsumer : Obligations.StartStartsTheConsumer := fun _ => execStart_of_primed

/-! ### A consumer move -/

theorem step_consumer {s : State} (hv : s.cfg.valid = true) (rest : List Turn) :
    step { s with inputs := .consumer :: rest } = .next ({ s with inputs := rest } : State).consumerStep :=
  step_of_move hv _ rest

theorem State.consumerStep_of_enabled {s : State} (hs : s.started = true) (hsrc : s.cfg.eventSource = .consumer) :
    s.consumerStep = s.consume :=
  if_pos (State.consumerEnabled_iff.2 ⟨hs, hsrc⟩)

theorem State.consumerStep_of_not_enabled {s : State} (h : s.started = false ∨ s.cfg.eventSource = .external) :
    s.consumerStep = s := by
  refine if_neg (mt State.consumerEnabled_iff.1 ?_)
  rintro ⟨hs, hsrc⟩
  rcases h with h | h
  · simp [hs] at h
  · simp [hsrc] at h

/-- Settles O34: the move finds `CONSUME` not enabled (R232, R237). -/
theorem consumerWaitsUntilEnabled : Obligations.ConsumerWaitsUntilEnabled := by
  unfold Obligations.ConsumerWaitsUntilEnabled
  intro s rest hv hin hoff
  have hstep := step_consumer hv rest
  rw [← hin, State.consumerStep_of_not_enabled (s := { s with inputs := rest }) hoff] at hstep
  exact hstep

/-! ### The step by the place of `RD` -/

/-- The consumer's step at a drain point with an event pending: the event stays and the overrun is recorded (R234). -/
theorem State.consume_of_overrun {s : State} {e e' : Event} (hd : drainPoint s.rd = some e)
    (hp : s.pending = some e') :
    s.consume = { s with wire := s.wire ++ [s.readTB s.rd], rd := s.rd + 1, fEventOverrun := true } := by
  rw [State.consume_eq]
  simp [hd, hp]

section
variable (s : State)

theorem State.consume_wire : s.consume.wire = s.wire ++ [s.readTB s.rd] := by rw [State.consume_eq]

theorem State.consume_rd : s.consume.rd = s.rd + 1 := by rw [State.consume_eq]

/-- What the consumer's step changes (R233, R234). -/
theorem State.consume_frame :
    s.consume = { s with
      wire := s.consume.wire, rd := s.consume.rd, pending := s.consume.pending,
      fEventOverrun := s.consume.fEventOverrun } := by
  rw [State.consume_eq]

/-- The consumer's step does not look at the moves in store. -/
theorem State.consume_with_inputs (l : List Turn) :
    ({ s with inputs := l } : State).consume = { s.consume with inputs := l } := by
  rw [State.consume_eq, State.consume_eq]
  rfl

end

section
variable {s : State}

theorem State.consume_channel_off_drainPoint (h23 : s.rd.val ≠ 23) (h47 : s.rd.val ≠ 47) :
    s.consume.pending = s.pending ∧ s.consume.fEventOverrun = s.fEventOverrun := by
  have hd : drainPoint s.rd = none := by simp [drainPoint, h23, h47]
  rw [State.consume_of_drainPoint_none hd]
  exact ⟨rfl, rfl⟩

theorem State.consume_channel_of_pending_none {o : Option Event} (hd : drainPoint s.rd = o) (hp : s.pending = none) :
    s.consume.pending = o ∧ s.consume.fEventOverrun = s.fEventOverrun := by
  rw [State.consume_of_pending_none hp]
  exact ⟨hd, rfl⟩

theorem State.consume_channel_of_overrun (hrd : s.rd.val = 23 ∨ s.rd.val = 47) (hp : s.pending ≠ none) :
    s.consume.pending = s.pending ∧ s.consume.fEventOverrun = true := by
  obtain ⟨e, hd⟩ := Option.isSome_iff_exists.1 ((drainPoint_isSome s.rd).2 hrd)
  obtain ⟨e', hp⟩ := Option.ne_none_iff_exists'.1 hp
  rw [State.consume_of_overrun hd hp]
  exact ⟨rfl, rfl⟩

end

/-- Settles O33, by the place of `RD` and, at a drain point, by what `PENDING` holds. -/
theorem consumerStepReadsAndRaises : Obligations.ConsumerStepReadsAndRaises := by
  unfold Obligations.ConsumerStepReadsAndRaises
  intro s rest hv hsrc hs hin
  have hstep := step_consumer hv rest
  rw [← hin, State.consumerStep_of_enabled (s := { s with inputs := rest }) hs hsrc, s.consume_with_inputs] at hstep
  exact ⟨_, hstep, s.consume_wire, s.consume_rd ▸ rd_succ_val s.rd, State.consume_channel_off_drainPoint,
    fun h23 => State.consume_channel_of_pending_none (if_pos h23),
    fun h47 => State.consume_channel_of_pending_none (by simp [drainPoint, h47]),
    State.consume_channel_of_overrun, congrArg (fun u : State => { u with inputs := rest }) s.consume_frame⟩

end Sys2Proof.Machine
end

section
/-! Proof of the statement on the consumer's return: each step of a sequence leaves less to do, so with no move in store the
sequences end and the consumer's turn comes (43_transfer_consumer.md R232, logs 5 and 7). -/

namespace Sys2Proof.Machine

/-! ### Steps left of a sequence -/

/-- At most this many steps are taken by an element of a sequence and all that follows it. A sequence with nothing left at
all takes one step to end. -/
@[simp] def After.stepsLeft : After → Nat
  | .done | .respond | .decayAdvance | .fadeFinish | .fadeArm => 1
  | .decaySet => 2
  | .decayTest _ => 3
  | .decayRespond _ => 4
  | .fadePin | .fadeIssue | .fadeInit _ _ _ | .fadeFields _ => 5
  | .fadeRespond _ _ _ | .fadeChannel .b _ _ => 6
  | .fadeChannel .g _ _ => 7
  | .fadeChannel .r _ _ => 8
  | .fadeTime _ => 9
  | .fadeOver _ => 10

theorem After.stepsLeft_pos (a : After) : 0 < a.stepsLeft := by
  cases a with
  | fadeChannel c => cases c <;> simp
  | _ => simp

theorem After.stepsLeft_le (a : After) : a.stepsLeft ≤ 10 := by
  cases a with
  | fadeChannel c => cases c <;> simp
  | _ => simp

theorem Channel.stepsLeft_after (c : Channel) (num den : Nat) :
    (c.after num den).stepsLeft < (After.fadeChannel c num den).stepsLeft := by
  cases c <;> simp [Channel.after]

/-- At most this many steps are left of a sequence: its accesses, and what follows them. -/
def Task.stepsLeft (t : Task) : Nat := t.todo.length + t.after.stepsLeft

/-- At most this many steps are left of the sequences in progress. -/
def State.stepsLeft (s : State) : Nat := (s.tasks.map Task.stepsLeft).sum

section
variable (s : State)

theorem State.stepsLeft_le_sum : s.stepsLeft ≤ (s.tasks.map fun t => t.todo.length + 10).sum :=
  List.sum_le_sum fun t _ => Nat.add_le_add_left t.after.stepsLeft_le _

theorem State.stepsLeft_dropTask_le (h : Nat) : (s.dropTask h).stepsLeft ≤ s.stepsLeft :=
  (List.filter_sublist.map _).sum_le_sum fun _ _ => Nat.zero_le _

theorem State.stepsLeft_putTask (t : Task) : (s.putTask t).stepsLeft = t.stepsLeft + (s.dropTask t.host).stepsLeft :=
  List.sum_cons

/-- A sequence settled has left at most what it had. -/
theorem State.stepsLeft_settleTask_le (t : Task) :
    (s.settleTask t).stepsLeft ≤ t.stepsLeft + (s.dropTask t.host).stepsLeft := by
  unfold State.settleTask
  split
  · exact Nat.le_add_left _ _
  · exact (s.stepsLeft_putTask t).le

end

/-- A sequence put in progress that has less left than `t`, in a state with the other sequences of `s`. -/
theorem State.stepsLeft_putTask_lt {s v : State} {t u : Task} (hv : v.tasks = s.tasks)
    (hu : u.stepsLeft < t.stepsLeft) : (v.putTask u).stepsLeft < t.stepsLeft + s.stepsLeft := by
  have hs : v.stepsLeft = s.stepsLeft := congrArg (fun l => (l.map Task.stepsLeft).sum) hv
  have hdrop := v.stepsLeft_dropTask_le u.host
  rw [State.stepsLeft_putTask]
  omega

/-- An access made leaves less to do. -/
theorem State.stepsLeft_makeAccess_lt (s : State) {t : Task} {j : Nat} (hj : j < t.todo.length) :
    (s.makeAccess t j).stepsLeft < t.stepsLeft + (s.dropTask t.host).stepsLeft := by
  have hmade (v : State) (got : Pixel) (hv : v.tasks = s.tasks) :
      (v.settleTask { t with todo := t.todo.eraseIdx j, got := got }).stepsLeft <
        t.stepsLeft + (s.dropTask t.host).stepsLeft := by
    have hle := v.stepsLeft_settleTask_le { t with todo := t.todo.eraseIdx j, got := got }
    simp only [Task.stepsLeft, State.stepsLeft, State.dropTask, hv, List.length_eraseIdx_of_lt hj] at hle ⊢
    omega
  unfold State.makeAccess
  rw [List.getElem?_eq_getElem hj]
  cases t.todo[j] with
  | write f v => exact hmade _ t.got rfl
  | read f => exact hmade s _ rfl
  | host w => exact hmade _ t.got rfl

/-- Every other element done leaves less to do. -/
theorem State.stepsLeft_finishTask_lt (s : State) (t : Task) :
    (s.finishTask t).stepsLeft < t.stepsLeft + (s.dropTask t.host).stepsLeft := by
  have hended (v : State) : v.stepsLeft < t.stepsLeft + v.stepsLeft :=
    Nat.lt_add_of_pos_left (Nat.add_pos_right _ t.after.stepsLeft_pos)
  have hgone {a : After} (v : State) (got : Pixel) (hv : v.tasks = (s.dropTask t.host).tasks)
      (ha : a.stepsLeft < t.after.stepsLeft) :
      (v.putTask { t with got := got, after := a }).stepsLeft < t.stepsLeft + (s.dropTask t.host).stepsLeft :=
    State.stepsLeft_putTask_lt hv (Nat.add_lt_add_left ha _)
  have hnew (v : State) {u : Task} (hv : v.tasks = (s.dropTask t.host).tasks) (hu : u.stepsLeft = 4)
      (ha : t.after.stepsLeft = 5) : (v.putTask u).stepsLeft < t.stepsLeft + (s.dropTask t.host).stepsLeft := by
    refine State.stepsLeft_putTask_lt hv ?_
    rw [hu, Task.stepsLeft, ha]
    omega
  unfold State.finishTask
  generalize s.dropTask t.host = d at hgone hnew ⊢
  cases ha : t.after with
  | done => exact hended d
  | respond => exact hended (d.respondTo t)
  | decayAdvance => exact hended (d.advanceDeadline t.led)
  | fadeFinish => exact hended (d.finishFade t.led)
  | fadeArm => exact hended (d.writeFade _ _)
  | decayRespond now => exact hgone _ _ rfl (by simp [ha])
  | decayTest now =>
    dsimp only
    split
    · exact hgone _ _ rfl (by simp [ha])
    · exact hended d
  | decaySet => exact hgone _ _ (by simp) (by simp [ha])
  | fadeOver now =>
    refine hgone _ _ rfl ?_
    rw [ha]
    split <;> simp
  | fadeTime now => exact hgone _ _ rfl (by simp [ha])
  | fadeChannel c num den => exact hgone _ _ rfl (ha ▸ c.stepsLeft_after num den)
  | fadeRespond tgt start dur => exact hgone _ _ rfl (by simp [ha])
  | fadePin => exact hnew _ rfl rfl (by simp [ha])
  | fadeIssue => exact hnew _ rfl rfl (by simp [ha])
  | fadeInit tgt start dur => exact hnew _ rfl rfl (by simp [ha])
  | fadeFields f => exact hnew _ rfl rfl (by simp [ha])

/-- The eager schedule's step of a sequence leaves less to do. -/
theorem State.stepsLeft_advance_lt {s : State} {t : Task} {ts : List Task} (ht : s.tasks = t :: ts) (k : Nat) :
    (s.advance t.host k).stepsLeft < s.stepsLeft := by
  have htask : s.taskOf t.host = some t := by simp [State.taskOf, ht]
  have hsplit : t.stepsLeft + (s.dropTask t.host).stepsLeft ≤ s.stepsLeft := by
    have hle := ({ s with tasks := ts } : State).stepsLeft_dropTask_le t.host
    simp only [State.stepsLeft, State.dropTask, ht] at hle ⊢
    simpa using hle
  refine Nat.lt_of_lt_of_le ?_ hsplit
  by_cases h0 : t.todo = []
  · rw [State.advance_of_todo_nil htask h0]
    exact s.stepsLeft_finishTask_lt t
  · have hj := Nat.mod_lt k (List.length_pos_iff.2 h0)
    rw [State.advance_of_access htask (List.getElem?_eq_getElem hj)]
    exact s.stepsLeft_makeAccess_lt hj

/-! ### The eager schedule of a started stream -/

/-- An admitted `CONSUMER` configuration, started, with no move in store; the host may have sequences in progress. -/
structure State.OnSchedule (s : State) : Prop where
  valid : s.cfg.valid = true
  source : s.cfg.eventSource = .consumer
  started : s.started = true
  inputs : s.inputs = []

/-- The wire grows within `n` steps of `s`. -/
def State.WireGrowsWithin (s : State) (n : Nat) : Prop :=
  ∃ k t, k ≤ n ∧ core.run k s = .next t ∧ s.wire.length < t.wire.length

theorem State.WireGrowsWithin.mono {s : State} {m n : Nat} (h : s.WireGrowsWithin m) (hmn : m ≤ n) :
    s.WireGrowsWithin n := by
  obtain ⟨k, t, hk, hrun, hwire⟩ := h
  exact ⟨k, t, hk.trans hmn, hrun, hwire⟩

/-- One step more before it, that leaves the wire as it is. -/
theorem State.WireGrowsWithin.of_step {s u : State} {n : Nat} (hstep : step s = .next u) (hw : u.wire = s.wire)
    (h : u.WireGrowsWithin n) : s.WireGrowsWithin (n + 1) := by
  obtain ⟨k, t, hk, hrun, hwire⟩ := h
  exact ⟨k + 1, t, Nat.succ_le_succ hk, core_run_succ.2 ⟨u, hstep, hrun⟩, hw ▸ hwire⟩

namespace State.OnSchedule
variable {s : State} (h : s.OnSchedule)
include h

theorem step_default : step s = s.takeTurn s.defaultTurn := by
  rw [step_of_valid h.valid, State.nextMove, h.inputs]

/-- With an event pending the schedule takes the sequencer's step. -/
theorem step_sequencer {e : Event} (hp : s.pending = some e) : step s = .next (s.takePending.handle e) := by
  have hturn : s.defaultTurn = .sequencer := by simp [State.defaultTurn, h.source, hp]
  rw [h.step_default, hturn]
  simp [State.takeTurn, State.sequencerStep, h.source, hp, Event.exec_instr]

/-- With none pending it carries on the first sequence in progress. -/
theorem step_advance (hp : s.pending = none) {t : Task} {ts : List Task} (ht : s.tasks = t :: ts) :
    step s = .next (s.advance t.host 0) := by
  have hturn : s.defaultTurn = .advance t.host 0 := by simp [State.defaultTurn, hp, ht]
  rw [h.step_default, hturn, State.takeTurn]

theorem advance (hst k : Nat) : (s.advance hst k).OnSchedule := by
  rw [State.advance_frame]
  exact ⟨h.valid, h.source, h.started, h.inputs⟩

theorem takePending_handle (e : Event) : (s.takePending.handle e).OnSchedule := by
  rw [State.handle_frame]
  exact ⟨h.valid, h.source, h.started, h.inputs⟩

/-- With nothing pending, the sequences end and the consumer steps. -/
theorem wireGrowsWithin_of_pending_none (hp : s.pending = none) : s.WireGrowsWithin (s.stepsLeft + 1) := by
  induction hn : s.stepsLeft using Nat.strong_induction_on generalizing s with
  | _ n ih =>
    cases ht : s.tasks with
    | nil =>
      have heager : s.Eager := ⟨h.valid, h.source, h.started, ht, h.inputs⟩
      exact ⟨1, _, Nat.le_add_left .., core_run_one (heager.step_consumer hp), by simp [s.consume_wire]⟩
    | cons t ts =>
      have hless := State.stepsLeft_advance_lt ht 0
      have hpending : (s.advance t.host 0).pending = s.pending := by rw [State.advance_frame]
      have hwire : (s.advance t.host 0).wire = s.wire := by rw [State.advance_frame]
      have hnext := ih _ (hn ▸ hless) (h.advance t.host 0) (hpending.trans hp) rfl
      exact (hnext.of_step (h.step_advance hp ht) hwire).mono (by omega)

end State.OnSchedule

/-- Settles O35: a pending event takes one step, the sequences at most `State.stepsLeft`, and then the consumer's turn has
come. -/
theorem consumerComesAgain : Obligations.ConsumerComesAgain := by
  unfold Obligations.ConsumerComesAgain
  intro s hv hsrc hs hi
  have h : s.OnSchedule := ⟨hv, hsrc, hs, hi⟩
  have hgrows : s.WireGrowsWithin (s.stepsLeft + 2) := by
    cases hp : s.pending with
    | none => exact (h.wireGrowsWithin_of_pending_none hp).mono (Nat.le_succ _)
    | some e =>
      have hleft : (s.takePending.handle e).stepsLeft = s.stepsLeft := by simp [State.stepsLeft]
      have hnext := (h.takePending_handle e).wireGrowsWithin_of_pending_none (by simp)
      exact hleft ▸ hnext.of_step (h.step_sequencer hp) (by simp)
  exact hgrows.mono (Nat.add_le_add_right s.stepsLeft_le_sum 2)

end Sys2Proof.Machine
end

section
/-! Proof of the statement on the fade interpolation: a step from `a` towards `b` by less than the whole way stays between
them, so the floor fits its byte, and the free conversion is clamped (44_host_fade_engine.md R256). -/

namespace Sys2Proof.Machine

/-- Less than the whole way from `a` to `b`, rounded down, is between them. -/
theorem min_le_lerp_and_lerp_le_max (a b : Int) {num den : Int} (hnum : 0 ≤ num) (h : num < den) :
    min a b ≤ a + (b - a) * num / den ∧ a + (b - a) * num / den ≤ max a b := by
  have hden : 0 < den := by omega
  have hupper : (b - a) * num / den ≤ max (b - a) 0 := by
    refine Int.ediv_le_of_le_mul hden ?_
    nlinarith [le_max_left (b - a) 0, le_max_right (b - a) 0]
  have hlower : min (b - a) 0 ≤ (b - a) * num / den := by
    refine (Int.le_ediv_iff_mul_le hden).2 ?_
    nlinarith [min_le_left (b - a) 0, min_le_right (b - a) 0]
  omega

section
variable (a b : Byte) {num den : Nat} (h : num < den)
include h

/-- The floor of the exact value fits its byte. -/
theorem fadeInterpFloor_toInt :
    ((fadeInterpFloor a b num den).toNat : Int) = a.toNat + ((b.toNat : Int) - a.toNat) * num / den := by
  have hbetween := min_le_lerp_and_lerp_le_max a.toNat b.toNat (Int.natCast_nonneg num) (Int.ofNat_lt.2 h)
  have ha := a.isLt
  have hb := b.isLt
  rw [fadeInterpFloor, BitVec.toNat_ofNat, Nat.mod_eq_of_lt (by omega), Int.toNat_of_nonneg (by omega)]

theorem fadeInterpFloor_between :
    min a.toNat b.toNat ≤ (fadeInterpFloor a b num den).toNat
      ∧ (fadeInterpFloor a b num den).toNat ≤ max a.toNat b.toNat := by
  have hval := fadeInterpFloor_toInt a b h
  have hbetween := min_le_lerp_and_lerp_le_max a.toNat b.toNat (Int.natCast_nonneg num) (Int.ofNat_lt.2 h)
  omega

/-- The default conversion is the exact value rounded down. -/
theorem fadeInterpFloor_roundsDown :
    ((fadeInterpFloor a b num den).toNat : Int) * den ≤ a.toNat * den + ((b.toNat : Int) - a.toNat) * num
      ∧ a.toNat * den + ((b.toNat : Int) - a.toNat) * num < ((fadeInterpFloor a b num den).toNat + 1 : Int) * den := by
  have hden : (0 : Int) < den := by omega
  have hle := Int.ediv_mul_le (((b.toNat : Int) - a.toNat) * num) hden.ne'
  have hlt := Int.lt_ediv_add_one_mul_self (((b.toNat : Int) - a.toNat) * num) hden
  rw [fadeInterpFloor_toInt a b h]
  constructor <;> linarith

end

theorem clampBetween_between (a b v : Byte) :
    min a.toNat b.toNat ≤ (clampBetween a b v).toNat ∧ (clampBetween a b v).toNat ≤ max a.toNat b.toNat := by
  unfold clampBetween
  split_ifs <;> omega

/-! ### `fade_interp` in the range of R256 -/

/-- At `t = 0` every conversion is exact. -/
theorem fadeInterp_zero (cfg : Config) (a b : Byte) (den : Nat) : fadeInterp cfg a b 0 den = a := if_pos rfl

theorem fadeInterpFloor_zero (a b : Byte) (den : Nat) : fadeInterpFloor a b 0 den = a := by
  simp [fadeInterpFloor]

/-- The default conversion, at `t = 0` as well. -/
theorem fadeInterp_of_floor {cfg : Config} (hc : cfg.fadeInterp = .floor) (a b : Byte) {num den : Nat} (h : num < den) :
    fadeInterp cfg a b num den = fadeInterpFloor a b num den := by
  by_cases h0 : num = 0
  · rw [h0, fadeInterp_zero, fadeInterpFloor_zero]
  · rw [fadeInterp, if_neg h0, if_neg (Nat.not_le.2 h), hc]

theorem fadeInterp_of_free {cfg : Config} (hc : cfg.fadeInterp = .free) (a b : Byte) {num den : Nat} (h0 : num ≠ 0)
    (h : num < den) :
    fadeInterp cfg a b num den = clampBetween a b (Config.freeFadeInterp a b num den) := by
  rw [fadeInterp, if_neg h0, if_neg (Nat.not_le.2 h), hc]

theorem fadeInterp_between (cfg : Config) (a b : Byte) {num den : Nat} (h : num < den) :
    min a.toNat b.toNat ≤ (fadeInterp cfg a b num den).toNat
      ∧ (fadeInterp cfg a b num den).toNat ≤ max a.toNat b.toNat := by
  cases hc : cfg.fadeInterp with
  | floor =>
    rw [fadeInterp_of_floor hc a b h]
    exact fadeInterpFloor_between a b h
  | free =>
    by_cases h0 : num = 0
    · rw [h0, fadeInterp_zero]
      omega
    · rw [fadeInterp_of_free hc a b h0 h]
      exact clampBetween_between a b _

/-- Settles O57, by the conversion that the configuration names. -/
theorem fadeInterpolationKeepsItsBounds : Obligations.FadeInterpolationKeepsItsBounds := by
  unfold Obligations.FadeInterpolationKeepsItsBounds
  intro cfg a b num den h
  obtain ⟨hmin, hmax⟩ := fadeInterp_between cfg a b h
  refine ⟨fadeInterp_zero cfg a b den, hmin, hmax, fun hc => ?_⟩
  rw [fadeInterp_of_floor hc a b h]
  exact fadeInterpFloor_roundsDown a b h

end Sys2Proof.Machine
end

section
/-! Proofs of the statements on `DECAY`: past its tests it is a `GETPIX`, a write of `BR` and a write of the deadline
(44_host_fade_engine.md R253), and called at every time unit it never falls behind its deadline (R261). -/

namespace Sys2Proof.Machine

section
variable {s : State} {i : Nat} (hn : s.cfg.n ≤ 255) (hi : i < s.cfg.n)
include hn hi

theorem State.setBrightness_ledIndex {br : Byte} (hp : brightnessOk br = true) :
    s.setBrightness (ledIndex i) br = s.writeField i .br br := by
  rw [State.setBrightness, if_pos (State.pixelAccepted_ledIndex hn hi hp), ledIndex_toNat (by omega)]

/-- `GETPIX` of a host index changes nothing but `RESP`. -/
theorem State.getPixel_ledIndex :
    s.getPixel (ledIndex i) = { s with
      resp := s.resp ++ [packWord 0x05 (BitVec.ofNat 8 i) (s.readField i .r) (s.readField i .g) (s.readField i .b)
        (s.readField i .br)] } :=
  State.getPixel_of_lt hi hn

variable (hw : Memory.wf s = true) (he : (s.readFade i).fadeEnabled = true) (hb : s.readField i .br ≠ 0) {now : Nat}
  (hd : (s.readFade i).nextFadeTime ≤ now)
include hw he hb hd

/-- The `SETBRT` of a due `DECAY` is accepted: it is one field write, and one write of the fade record follows. -/
theorem State.decay_eq_writes_of_due :
    s.decay i now = ((s.getPixel (ledIndex i)).writeField i .br (s.readField i .br - 1)).writeFade i
      { s.readFade i with nextFadeTime := (s.readFade i).nextFadeTime + (s.readFade i).decayDelay } := by
  have hmax : (s.readField i .br).toNat ≤ 100 := Memory.wf_readPixel hw i
  have hpred := pred_toNat hb
  have hok : brightnessOk (s.readField i .br - 1) = true := decide_eq_true (show _ ≤ 100 by omega)
  rw [State.decay_of_due hi he hb hd, State.setBrightness_ledIndex (s := s.getPixel _) hn hi hok]
  rfl

end

/-- Settles O58, by the tests of `DECAY`. -/
theorem decayDecrementsOnce : Obligations.DecayDecrementsOnce := by
  unfold Obligations.DecayDecrementsOnce
  intro s i now hv hw
  obtain ⟨-, hn, -⟩ := (Config.valid_iff s.cfg).1 hv
  obtain ⟨hpix, -, hfade⟩ := (Memory.wf_iff s).1 hw
  refine ⟨fun hi he hb hd => ?_, fun hi he h => ?_, State.decay_of_off now⟩
  · rw [State.decay_eq_writes_of_due hn hi hw he hb hd, State.getPixel_ledIndex hn hi]
    refine ⟨?_, State.readFade_writeFade_same _ _ (hfade ▸ hi), fun j f h => State.readField_writeField_other _ _ h,
      fun j h => State.readFade_writeFade_other _ _ h, rfl⟩
    exact (congrArg (·.toNat + 1) (State.readField_writeField_same _ _ _ (hpix ▸ hi))).trans (pred_toNat hb)
  · rw [State.decay_of_not_due hi he h, State.getPixel_ledIndex hn hi]

/-! ### `DECAY` at every time unit -/

/-- How LED `i` stands at time `m` when `DECAY` has been called at every time unit from the deadline of `s` to before `m`:
dark, or as many delays past that deadline as it has been decremented, and not before `m`. -/
structure State.DecayedTo (s : State) (i m : Nat) (t : State) : Prop where
  cfg : t.cfg = s.cfg
  wf : Memory.wf t = true
  enabled : (t.readFade i).fadeEnabled = true
  delay : (t.readFade i).decayDelay = (s.readFade i).decayDelay
  pace : t.readField i .br = 0 ∨
    m ≤ (t.readFade i).nextFadeTime
      ∧ (t.readFade i).nextFadeTime + (t.readField i .br).toNat * (s.readFade i).decayDelay =
        (s.readFade i).nextFadeTime + (s.readField i .br).toNat * (s.readFade i).decayDelay

section
variable {s t : State} {i m : Nat} (hv : s.cfg.valid = true) (hi : i < s.cfg.n)
  (hpos : 1 ≤ (s.readFade i).decayDelay)

theorem State.decayedTo_self (hw : Memory.wf s = true) (he : (s.readFade i).fadeEnabled = true) :
    s.DecayedTo i (s.readFade i).nextFadeTime s :=
  ⟨rfl, hw, he, rfl, .inr ⟨Nat.le_refl _, rfl⟩⟩

include hv hi hpos

/-- A call at `m` decrements if the deadline is `m`, and then the deadline is past `m` as the delay is at least 1. -/
theorem State.DecayedTo.decay (h : s.DecayedTo i m t) : s.DecayedTo i (m + 1) (t.decay i m) := by
  obtain ⟨hc, hw, he, hdelay, hpace⟩ := h
  have hi' : i < t.cfg.n := hc ▸ hi
  obtain ⟨hdue, hnotDue, -⟩ := decayDecrementsOnce t i m (hc ▸ hv) hw
  by_cases hdark : t.readField i .br = 0 ∨ m < (t.readFade i).nextFadeTime
  · rw [hnotDue hi' he hdark]
    refine ⟨hc, hw, he, hdelay, ?_⟩
    rcases hdark with h0 | hlt
    · exact .inl h0
    · exact hpace.imp_right fun hp => ⟨hlt, hp.2⟩
  · obtain ⟨hb, hle⟩ := not_or.1 hdark
    obtain ⟨hbr, hfade, -, -, -⟩ := hdue hi' he hb (Nat.not_lt.1 hle)
    obtain ⟨hm, hsum⟩ := hpace.resolve_left hb
    refine ⟨(t.decay_cfg i m).trans hc, Memory.wf_decay hw i m, by rw [hfade, he], by rw [hfade, hdelay], .inr ?_⟩
    rw [hfade]
    dsimp only
    rw [hdelay]
    refine ⟨by omega, ?_⟩
    rw [← hsum, ← hbr]
    ring

theorem State.decayedTo_decayEvery (hw : Memory.wf s = true) (he : (s.readFade i).fadeEnabled = true) (k : Nat) :
    s.DecayedTo i ((s.readFade i).nextFadeTime + k) (s.decayEvery i (s.readFade i).nextFadeTime k) := by
  induction k with
  | zero => exact State.decayedTo_self hw he
  | succ k ih => exact ih.decay hv hi hpos

omit hv hi hpos in
/-- Past `b0 - 1` delays from the deadline the LED is dark. -/
theorem State.DecayedTo.dark {k : Nat} (h : s.DecayedTo i ((s.readFade i).nextFadeTime + k) t)
    (hb : s.readField i .br ≠ 0) (hk : ((s.readField i .br).toNat - 1) * (s.readFade i).decayDelay < k) :
    t.readField i .br = 0 := by
  refine h.pace.elim id fun ⟨hm, hsum⟩ => BitVec.eq_of_toNat_eq ?_
  by_contra hne
  have hlast : (s.readFade i).decayDelay ≤ (t.readField i .br).toNat * (s.readFade i).decayDelay :=
    Nat.le_mul_of_pos_left _ (Nat.pos_of_ne_zero hne)
  have hall : (s.readField i .br).toNat * (s.readFade i).decayDelay =
      ((s.readField i .br).toNat - 1) * (s.readFade i).decayDelay + (s.readFade i).decayDelay := by
    rw [← pred_toNat hb, Nat.add_sub_cancel, Nat.succ_mul]
  omega

end

/-- Settles O59: the deadline never falls behind the calls, so all decrements have been made in time. -/
theorem decayReachesZeroInTime : Obligations.DecayReachesZeroInTime := by
  unfold Obligations.DecayReachesZeroInTime
  intro s i k hv hw hi he hb hk hpos
  exact (State.decayedTo_decayEvery hv hi hpos hw he k).dark hb hk

end Sys2Proof.Machine
end

section
/-! Proof of the statement on the host forms of `set` and `setColorNormalized`: the command, then one write of the LED's fade
record (44_host_fade_engine.md R255, R258). -/

namespace Sys2Proof.Machine

/-- A write of one fade record after changes that left the fade state of `s` alone. -/
theorem State.writeFade_of_fade {s t : State} {i : Nat} (hi : i < s.fade.length) (hf : t.fade = s.fade) (r : FadeRec) :
    (t.writeFade i r).readFade i = r
      ∧ (∀ j, j ≠ i → (t.writeFade i r).readFade j = s.readFade j)
      ∧ t.writeFade i r = { t with fade := (t.writeFade i r).fade } :=
  ⟨State.readFade_writeFade_same t r (hf ▸ hi),
    fun j h => (State.readFade_writeFade_other t r h).trans (State.readFade_congr hf j), rfl⟩

theorem State.hostAccepted_of_le_100 {s : State} {i : Nat} {br : Byte} (hi : i < s.cfg.n) (hbr : br.toNat ≤ 100) :
    s.hostAccepted i br = true :=
  State.hostAccepted_iff.2 ⟨hi, decide_eq_true hbr⟩

section
variable {s : State} {i : Nat}

section
variable {p : Pixel} (h : s.hostAccepted i p.br = true)
include h

theorem State.hostSet_none_of_accepted : s.hostSet i p none = s.setPixel (ledIndex i) p := if_pos h

theorem State.hostSet_some_of_accepted (f : FadeFields) :
    s.hostSet i p (some f) = (s.setPixel (ledIndex i) p).setFadeFields i f := if_pos h

end

theorem State.setFadeFields_setPixel (s : State) (i : Nat) (idx : Byte) (p : Pixel) (f : FadeFields) :
    (s.setPixel idx p).setFadeFields i f = (s.setPixel idx p).writeFade i { s.readFade i with
      fadeEnabled := f.fadeEnabled, decayDelay := f.decayDelay, nextFadeTime := f.nextFadeTime } := by
  rw [State.setFadeFields, State.readFade_congr (State.setPixel_fade s idx p)]

section
variable {br : Byte} (h : s.hostAccepted i br = true) (r g b : Byte)
include h

theorem State.hostSetNorm_of_zero (h0 : br = 0) : s.hostSetNorm i r g b br = s.setNorm (ledIndex i) r g b br :=
  (if_pos h).trans (if_pos h0)

theorem State.hostSetNorm_of_ne_zero (h0 : br ≠ 0) :
    s.hostSetNorm i r g b br = (s.setNorm (ledIndex i) r g b br).writeFade i
      { s.readFade i with decayDelay := s.cfg.fadeOutBudget / br.toNat } := by
  have hdelay : s.hostSetNorm i r g b br = (s.setNorm (ledIndex i) r g b br).setDecayDelay i br :=
    (if_pos h).trans (if_neg h0)
  rw [hdelay, State.setDecayDelay, State.readFade_congr (State.setNorm_fade s ..), State.setNorm_cfg]

end

end

/-- Settles O60, by the acceptance of the command and, for `setColorNormalized`, by `br = 0`. -/
theorem hostFormsWriteTheFadeFields : Obligations.HostFormsWriteTheFadeFields := by
  unfold Obligations.HostFormsWriteTheFadeFields
  intro s i r g b br f _ hw
  obtain ⟨-, -, hfade⟩ := (Memory.wf_iff s).1 hw
  refine ⟨fun hi hbr => ?_, fun h => ?_⟩
  · have hacc := State.hostAccepted_of_le_100 hi hbr
    have hlen : i < s.fade.length := hfade ▸ hi
    constructor
    · have hsome := State.hostSet_some_of_accepted (p := ⟨r, g, b, br⟩) hacc f
      rw [State.setFadeFields_setPixel] at hsome
      refine ⟨_, _, rfl, congrArg Host.Outcome.next (State.hostSet_none_of_accepted (p := ⟨r, g, b, br⟩) hacc),
        congrArg Host.Outcome.next hsome, ?_⟩
      exact State.writeFade_of_fade hlen (State.setPixel_fade ..) _
    · by_cases h0 : br = 0
      · exact ⟨_, _, rfl, congrArg Host.Outcome.next (State.hostSetNorm_of_zero hacc r g b h0), fun _ => rfl,
          fun hne => absurd h0 hne, fun j _ => State.readFade_congr (State.setNorm_fade ..) j, rfl⟩
      · obtain ⟨hsame, hother, hframe⟩ := State.writeFade_of_fade hlen (State.setNorm_fade s (ledIndex i) r g b br)
          { s.readFade i with decayDelay := s.cfg.fadeOutBudget / br.toNat }
        exact ⟨_, _, rfl, congrArg Host.Outcome.next (State.hostSetNorm_of_ne_zero hacc r g b h0),
          fun hz => absurd hz h0, fun _ => hsame, hother, hframe⟩
  · have hrej : ¬s.hostAccepted i br = true := by
      simp only [State.hostAccepted_iff, brightnessOk, maxBrightness, decide_eq_true_eq]
      omega
    exact ⟨congrArg Host.Outcome.next (State.hostSet_of_rejected hrej none),
      congrArg Host.Outcome.next (State.hostSet_of_rejected hrej (some f)),
      congrArg Host.Outcome.next (State.hostSetNorm_of_rejected hrej r g b)⟩

end Sys2Proof.Machine
end

section
/-! Proof of the statement on `setNextFadeColor` and `FADE`: the first is a `GETPIX` and one write of the descriptor, the
second a `SETCOL`, and at the end of the fade one more write of the descriptor (44_host_fade_engine.md R254, R257, R260). -/

namespace Sys2Proof.Machine

theorem FadeRec.over_iff {r : FadeRec} {now : Nat} : r.over now = true ↔ r.dur = 0 ∨ r.start + r.dur ≤ now := by
  simp [FadeRec.over]

/-- Up to its start a fade has exactly its initial colour. -/
theorem FadeRec.colourAt_of_le_start (r : FadeRec) (cfg : Config) {now : Nat} (h : now ≤ r.start) :
    r.colourAt cfg now = r.init := by
  simp only [FadeRec.colourAt, FadeRec.channelAt, Nat.sub_eq_zero_of_le h, fadeInterp_zero, Colour.get]

/-! ### `setNextFadeColor` -/

theorem State.setNextFadeColor_of_le {s : State} {i : Nat} (h : s.cfg.n ≤ i) (tgt : Colour) (start dur : Nat) :
    s.setNextFadeColor i tgt start dur = s := if_pos h

section
variable {s : State} {i : Nat} (hn : s.cfg.n ≤ 255) (hi : i < s.cfg.n) (tgt : Colour) (start dur : Nat)
include hi

theorem State.setNextFadeColor_of_lt :
    s.setNextFadeColor i tgt start dur = (s.getPixel (ledIndex i)).writeFade i
      { s.readFade i with init := (s.readPixel i).colour, tgt := tgt, start := start, dur := dur, finished := false } :=
  if_neg (Nat.not_le.2 hi)

theorem State.readFade_setNextFadeColor (hfade : s.fade.length = s.cfg.n) :
    (s.setNextFadeColor i tgt start dur).readFade i =
      { s.readFade i with
        init := (s.readPixel i).colour, tgt := tgt, start := start, dur := dur, finished := false } := by
  rw [State.setNextFadeColor_of_lt hi]
  exact State.readFade_writeFade_same _ _ (hfade ▸ hi)

theorem State.readFade_setNextFadeColor_other {j : Nat} (h : j ≠ i) :
    (s.setNextFadeColor i tgt start dur).readFade j = s.readFade j := by
  rw [State.setNextFadeColor_of_lt hi]
  exact State.readFade_writeFade_other _ _ h

include hn

theorem State.setNextFadeColor_frame :
    s.setNextFadeColor i tgt start dur = { s with
      fade := (s.setNextFadeColor i tgt start dur).fade,
      resp := s.resp ++ [packWord 0x05 (BitVec.ofNat 8 i) (s.readField i .r) (s.readField i .g) (s.readField i .b)
        (s.readField i .br)] } := by
  rw [State.setNextFadeColor_of_lt hi, State.getPixel_ledIndex hn hi]
  rfl

end

/-! ### `FADE` -/

section
variable {u : State} {i : Nat} (hn : u.cfg.n ≤ 255) (hi : i < u.cfg.n)
include hn hi

theorem State.readPixel_setColour_other (c : Colour) {j : Nat} (h : j ≠ i) :
    (u.setColour (ledIndex i) c).readPixel j = u.readPixel j := by
  rw [State.setColour_ledIndex hn hi]
  exact State.readPixel_writeFields_other u _ h

variable (hw : Memory.wf u = true) (hf : (u.readFade i).finished = false) {now : Nat}

omit hn in
include hf in
theorem State.fadeStep_of_over (h : (u.readFade i).dur = 0 ∨ (u.readFade i).start + (u.readFade i).dur ≤ now) :
    u.fadeStep i now =
      (u.setColour (ledIndex i) (u.readFade i).tgt).writeFade i { u.readFade i with finished := true } := by
  have hpin : u.fadeStep i now = (u.setColour (ledIndex i) (u.readFade i).tgt).finishFade i := by
    rw [State.fadeStep, if_neg (Nat.not_le.2 hi)]
    simp only [hf, FadeRec.over_iff.2 h, Bool.false_eq_true, if_false, if_true]
  rw [hpin, State.finishFade, State.readFade_congr (State.setColour_fade u ..)]

omit hn in
include hf in
theorem State.fadeStep_of_running (hd : (u.readFade i).dur ≠ 0)
    (h : now < (u.readFade i).start + (u.readFade i).dur) :
    u.fadeStep i now = u.setColour (ledIndex i) ((u.readFade i).colourAt u.cfg now) := by
  have hnotOver : ¬(u.readFade i).over now = true := fun ho =>
    (FadeRec.over_iff.1 ho).elim hd (Nat.not_le.2 h)
  rw [State.fadeStep, if_neg (Nat.not_le.2 hi)]
  simp only [hf, hnotOver, Bool.false_eq_true, if_false]

include hw hf

/-- At or after its end a fade pins its target and finishes, and so has no further effect. -/
theorem State.fadeStep_over_writes (h : (u.readFade i).dur = 0 ∨ (u.readFade i).start + (u.readFade i).dur ≤ now) :
    (u.fadeStep i now).readPixel i =
        ⟨(u.readFade i).tgt.r, (u.readFade i).tgt.g, (u.readFade i).tgt.b, (u.readPixel i).br⟩
      ∧ (∀ j, j ≠ i → (u.fadeStep i now).readPixel j = u.readPixel j)
      ∧ (u.fadeStep i now).readFade i = { u.readFade i with finished := true }
      ∧ (∀ j, j ≠ i → (u.fadeStep i now).readFade j = u.readFade j)
      ∧ u.fadeStep i now = { u with pix := (u.fadeStep i now).pix, fade := (u.fadeStep i now).fade }
      ∧ ∀ later, (u.fadeStep i now).fadeStep i later = u.fadeStep i now := by
  obtain ⟨-, -, hfade⟩ := (Memory.wf_iff u).1 hw
  obtain ⟨hsame, hother, hframe⟩ := State.writeFade_of_fade (hfade ▸ hi)
    (State.setColour_fade u (ledIndex i) (u.readFade i).tgt) { u.readFade i with finished := true }
  rw [State.fadeStep_of_over hi hf h]
  refine ⟨State.readPixel_setColour hw hi hn _, fun j => State.readPixel_setColour_other hn hi _, hsame, hother, ?_,
    fun later => State.fadeStep_of_off later (.inr (by rw [hsame]))⟩
  rw [State.setColour_frame]
  rfl

/-- Before its end a fade writes its interpolated colour and nothing else. -/
theorem State.fadeStep_running_writes (hd : (u.readFade i).dur ≠ 0)
    (h : now < (u.readFade i).start + (u.readFade i).dur) :
    (u.fadeStep i now).readPixel i =
        ⟨((u.readFade i).colourAt u.cfg now).r, ((u.readFade i).colourAt u.cfg now).g,
          ((u.readFade i).colourAt u.cfg now).b, (u.readPixel i).br⟩
      ∧ (now ≤ (u.readFade i).start → ((u.fadeStep i now).readPixel i).colour = (u.readFade i).init)
      ∧ (∀ j, j ≠ i → (u.fadeStep i now).readPixel j = u.readPixel j)
      ∧ u.fadeStep i now = { u with pix := (u.fadeStep i now).pix } := by
  have hcolour := State.readPixel_setColour hw hi hn ((u.readFade i).colourAt u.cfg now)
  rw [State.fadeStep_of_running hi hf hd h]
  refine ⟨hcolour, fun hle => ?_, fun j => State.readPixel_setColour_other hn hi _, State.setColour_frame ..⟩
  rw [hcolour]
  exact (u.readFade i).colourAt_of_le_start u.cfg hle

end

/-- Settles O56: `setNextFadeColor` as one write of the descriptor, and `FADE` by whether the fade is over. -/
theorem fadeStartsAndEndsExactly : Obligations.FadeStartsAndEndsExactly := by
  unfold Obligations.FadeStartsAndEndsExactly
  intro s u i tgt s0 d now hv hw hwu hc
  obtain ⟨-, hn, -⟩ := (Config.valid_iff s.cfg).1 hv
  obtain ⟨-, -, hfade⟩ := (Memory.wf_iff s).1 hw
  refine ⟨fun hle => ⟨State.setNextFadeColor_of_le hle tgt s0 d, State.fadeStep_of_off now (.inl (hc ▸ hle))⟩,
    fun hi => ?_⟩
  have hnu : u.cfg.n ≤ 255 := hc ▸ hn
  have hiu : i < u.cfg.n := hc ▸ hi
  have hset := State.readFade_setNextFadeColor hi tgt s0 d hfade
  refine ⟨⟨hset, fun j => State.readFade_setNextFadeColor_other hi tgt s0 d,
      State.setNextFadeColor_frame hn hi tgt s0 d⟩,
    fun hf => State.fadeStep_of_off now (.inr hf), fun hf => State.fadeStep_over_writes hnu hiu hwu hf,
    fun hf => State.fadeStep_running_writes hnu hiu hwu hf, fun hd hu => ?_⟩
  rw [hset] at hu
  have hf : (u.readFade i).finished = false := by rw [hu]
  refine ⟨fun hle => ?_, ?_⟩
  · obtain ⟨hpixel, -, hfin, -, -, hlater⟩ :=
      State.fadeStep_over_writes (now := now) hnu hiu hwu hf (.inr (by rw [hu]; exact hle))
    exact ⟨by rw [hpixel, hu]; rfl, by rw [hfin], hlater⟩
  · obtain ⟨-, hstart, -, hframe⟩ :=
      State.fadeStep_running_writes (now := s0) hnu hiu hwu hf (by rw [hu]; exact hd.ne')
        (by rw [hu]; exact Nat.lt_add_of_pos_right hd)
    refine ⟨(hstart (by rw [hu])).trans (by rw [hu]), ?_⟩
    rw [hframe]
    exact hf

end Sys2Proof.Machine
end

section
/-! The start protocol's violations (60_exceptions.md R284). `START` and `PRIME` branch on `STARTED` and `PRIMED`; each
violation takes the branch that raises `F_HOST_PROTOCOL`. -/

namespace Sys2Proof.Machine

/-- `START` is a violation when the stream runs already, and when the buffers are not primed. -/
theorem execStart_of_violation {s : State} (h : s.started = true ∨ s.primed = false) :
    exec .start s = .next (s.raiseFault .hostProtocol) := by
  rcases h with hstarted | hprimed
  · simp [exec, execStart, hstarted]
  · simp [exec, execStart, hprimed]

/-- `PRIME` is a violation when the stream runs already; `execPrime_of_not_started` is the other case. -/
theorem execPrime_of_started {s : State} (h : s.started = true) :
    exec .prime s = .next (s.raiseFault .hostProtocol) := by
  simp [exec, execPrime, h]

/-- Settles O27: each violation raises the fault, and raising it writes only its own bit. -/
theorem protocolViolationSetsOnlyTheFaultBit : Obligations.ProtocolViolationSetsOnlyTheFaultBit := by
  intro s
  exact ⟨fun hstarted => execStart_of_violation (.inl hstarted), fun hprimed => execStart_of_violation (.inr hprimed),
    execPrime_of_started⟩

end Sys2Proof.Machine
end

section
/-! The event overrun is prevented by `REFILL_DEADLINE` (70_reset_and_hazards.md R330). Along a run that keeps the
deadline every pending event is one that waits for its handler step, so the consumer never raises into a full `PENDING`. -/

namespace Sys2Proof.Machine

theorem State.raisesNext_iff {s : State} :
    s.raisesNext = true ↔
      s.nextMove.1 = .consumer ∧ s.consumerEnabled = true ∧ (drainPoint s.rd).isSome = true := by
  simp [State.raisesNext, and_assoc]

theorem State.handlesNext_iff {s : State} :
    s.handlesNext = true ↔
      s.nextMove.1 = .sequencer ∧ s.cfg.eventSource = .consumer ∧ s.pending.isSome = true := by
  simp [State.handlesNext, and_assoc]

/-- `PENDING` is filled by the consumer alone, at a drain point (43_transfer_consumer.md R233). -/
theorem State.Effect.cause_of_pending {s t : State} {m : Turn} (he : s.Effect m t) (h0 : s.pending.isSome = false)
    (h1 : t.pending.isSome = true) :
    m = .consumer ∧ s.consumerEnabled = true ∧ (drainPoint s.rd).isSome = true := by
  cases he with
  | host hc => rw [hc.frame] at h1; simp [h0] at h1
  | sequencer _ _ hp => simp [hp] at h0
  | consumer hm hc =>
    refine ⟨hm, hc, ?_⟩
    by_contra hd
    simp [State.consume_eq, hd, h0] at h1
  | refuse | protocolFault | prime | start | inject => simp [h0] at h1

/-- A sequencer event step empties `PENDING` (42_streaming_sequencer.md R192). -/
theorem step_pending_of_handlesNext {s t : State} (hh : s.handlesNext = true) (hstep : step s = .next t) :
    t.pending = none := by
  obtain ⟨hm, hsrc, hp⟩ := State.handlesNext_iff.1 hh
  obtain ⟨e, hp⟩ := Option.isSome_iff_exists.1 hp
  obtain ⟨-, h⟩ := step_cases hstep
  rw [hm, State.nextMove_frame] at h
  simp only [State.takeTurn, State.sequencerStep, hsrc, hp, Event.exec_instr] at h
  cases h
  rw [State.handle_frame]
  rfl

/-- An event pending after a step waits for its handler step, if one pending before it does. -/
theorem step_waitingAfter_of_pending {s t : State} {waiting : Bool} (hw : s.pending.isSome = true → waiting = true)
    (hstep : step s = .next t) (hp : t.pending.isSome = true) : s.waitingAfter waiting = true := by
  cases h0 : s.pending.isSome with
  | false =>
    obtain ⟨-, l, he⟩ := step_effect hstep
    simp [State.waitingAfter, State.raisesNext_iff.2 (he.cause_of_pending h0 hp)]
  | true =>
    have hh : s.handlesNext ≠ true := fun hh => by simp [step_pending_of_handlesNext hh hstep] at hp
    simp [State.waitingAfter, hw h0, hh]

/-- A step that keeps the deadline raises no event into a full `PENDING`. -/
theorem step_keeps_no_overrun {s t : State} {waiting : Bool} (hw : s.pending.isSome = true → waiting = true)
    (hd : (waiting && s.raisesNext) = false) (h0 : s.fEventOverrun = false) (hstep : step s = .next t) :
    t.fEventOverrun = false := by
  by_contra h1
  obtain ⟨-, l, he⟩ := step_effect hstep
  obtain ⟨hm, hc, hdrain, hp⟩ := he.cause_of_overrun h0 (by simpa using h1)
  simp [hw hp, State.raisesNext_iff.2 ⟨hm, hc, hdrain⟩] at hd

theorem State.deadlineFrom_succ {waiting : Bool} {k : Nat} {s t : State} (hstep : step s = .next t) :
    State.deadlineFrom waiting (k + 1) s = true ↔
      (waiting && s.raisesNext) = false ∧ State.deadlineFrom (s.waitingAfter waiting) k t = true := by
  rw [State.deadlineFrom, hstep, Bool.and_eq_true, Bool.not_eq_true']

/-- A run that keeps the deadline from a state whose pending event, if any, is known to wait. -/
theorem core_run_keeps_no_overrun {k : Nat} {s t : State} {waiting : Bool}
    (hw : s.pending.isSome = true → waiting = true) (hd : State.deadlineFrom waiting k s = true)
    (h0 : s.fEventOverrun = false) (hrun : core.run k s = .next t) : t.fEventOverrun = false := by
  induction k generalizing s waiting with
  | zero => cases hrun; exact h0
  | succ k ih =>
    obtain ⟨u, hstep, hrun⟩ := core_run_succ.1 hrun
    obtain ⟨hnow, hlater⟩ := (State.deadlineFrom_succ hstep).1 hd
    exact ih (step_waitingAfter_of_pending hw hstep) hlater (step_keeps_no_overrun hw hnow h0 hstep) hrun

/-- Settles O49: an event pending at the start counts as one that waits. -/
theorem refillDeadlinePreventsOverrun : Obligations.RefillDeadlinePreventsOverrun := by
  unfold Obligations.RefillDeadlinePreventsOverrun
  intro k s t h0 hd hrun
  exact core_run_keeps_no_overrun id hd h0 hrun

end Sys2Proof.Machine
end

section
/-! The boot order keeps the start protocol (70_reset_and_hazards.md R332). Each stage of the boot fixes `STARTED` and
`PRIMED` as far as the next command needs them, and only a command that is issued, from a context with nothing in
progress, changes them or is out of order. -/

namespace Sys2Proof.Machine

/-! ### A step of a command brought to the port -/

theorem Turn.isCommand_iff {m : Turn} {i : Instr} :
    m.isCommand i = true ↔
      ∃ h w, decodeCommand w = .ok i ∧ (m = .whole h (.command w) ∨ m = .split h (.command w)) := by
  have hok (w : CommandWord) : (decodeCommand w).toOption = some i ↔ decodeCommand w = .ok i := by
    cases decodeCommand w <;> simp [Except.toOption]
  constructor
  · intro hm
    unfold Turn.isCommand at hm
    split at hm
    · next h w => exact ⟨h, w, (hok w).1 (of_decide_eq_true hm), .inl rfl⟩
    · next h w => exact ⟨h, w, (hok w).1 (of_decide_eq_true hm), .inr rfl⟩
    · cases hm
  · rintro ⟨h, w, hd, rfl | rfl⟩ <;> exact decide_eq_true ((hok w).2 hd)

theorem State.issues_iff {s : State} {i : Instr} :
    s.issues i = true ↔
      ∃ h w, decodeCommand w = .ok i ∧ s.busy h = false
        ∧ (s.nextMove.1 = .whole h (.command w) ∨ s.nextMove.1 = .split h (.command w)) := by
  rw [State.issues, Bool.and_eq_true, Turn.isCommand_iff]
  constructor
  · rintro ⟨⟨h, w, hd, hm | hm⟩, hb⟩
    · exact ⟨h, w, hd, by simpa [hm, Turn.host?] using hb, .inl hm⟩
    · exact ⟨h, w, hd, by simpa [hm, Turn.host?] using hb, .inr hm⟩
  · rintro ⟨h, w, hd, hb, hm | hm⟩
    · exact ⟨⟨h, w, hd, .inl hm⟩, by simp [hm, Turn.host?, hb]⟩
    · exact ⟨⟨h, w, hd, .inr hm⟩, by simp [hm, Turn.host?, hb]⟩

/-- Choosing a move ends no sequence in progress and begins none. -/
theorem State.busy_nextMove (s : State) (h : Nat) : s.nextMove.2.busy h = s.busy h :=
  State.busy_congr (by rw [State.nextMove_frame]) h

/-- A command from a context with a sequence in progress is not issued: its move passes (20_memory.md R85). -/
theorem step_of_not_issued {s t : State} {i : Instr} (hm : s.nextMove.1.isCommand i = true) (hi : s.issues i ≠ true)
    (hstep : step s = .next t) : t = s.nextMove.2 := by
  obtain ⟨h, w, hd, hm⟩ := Turn.isCommand_iff.1 hm
  have hb : s.nextMove.2.busy h = true := by
    rw [State.busy_nextMove]
    by_contra hb
    exact hi (State.issues_iff.2 ⟨h, w, hd, by simpa using hb, hm⟩)
  obtain ⟨-, hturn⟩ := step_cases hstep
  rcases hm with hm | hm <;> rw [hm] at hturn
  · simpa [State.takeTurn, hb] using hturn.symm
  · simpa [State.takeTurn, hb] using hturn.symm

/-- `PRIME` issued, whole or as a sequence, is one step (42_streaming_sequencer.md R191). -/
theorem step_of_issues_prime {s t : State} (hi : s.issues .prime = true) (hstep : step s = .next t) :
    exec .prime s.nextMove.2 = .next t := by
  obtain ⟨h, w, hd, hb, hm⟩ := State.issues_iff.1 hi
  have hb' : s.nextMove.2.busy h = false := (s.busy_nextMove h).trans hb
  obtain ⟨-, hturn⟩ := step_cases hstep
  rcases hm with hm | hm <;> rw [hm] at hturn
  · rw [State.takeTurn_whole hb', State.runAction_of_ok hd] at hturn
    exact hturn
  · rw [State.takeTurn_split hb'] at hturn
    simpa only [State.beginAction, hd, State.beginCommand] using hturn

/-! ### What issued commands change -/

/-- `STARTED` is set by a `START` that is issued, alone (10_state.md R40). -/
theorem State.Effect.cause_of_started {s t : State} {m : Turn} (he : s.Effect m t) (h0 : s.started = false)
    (h1 : t.started = true) : m.isCommand .start = true := by
  cases he with
  | host hc => rw [hc.frame] at h1; simp [h0] at h1
  | start hm => exact hm
  | refuse | protocolFault | prime | sequencer | consumer | inject => simp [h0] at h1

theorem step_cause_of_started {s t : State} (hstep : step s = .next t) (h0 : s.started = false)
    (h1 : t.started = true) : s.issues .start = true := by
  obtain ⟨-, l, he⟩ := step_effect hstep
  by_contra hi
  rw [step_of_not_issued (he.cause_of_started h0 h1) hi hstep, State.nextMove_frame] at h1
  simp [h0] at h1

/-- `F_HOST_PROTOCOL` is set by a command that is issued (60_exceptions.md R284). -/
theorem step_cause_of_hostProtocol {s t : State} (hstep : step s = .next t) (h0 : s.fHostProtocol = false)
    (h1 : t.fHostProtocol = true) :
    (s.issues .prime = true ∧ s.started = true)
      ∨ (s.issues .start = true ∧ (s.started = true ∨ s.primed = false)) := by
  obtain ⟨-, l, he⟩ := step_effect hstep
  have hissued {i : Instr} (hm : s.nextMove.1.isCommand i = true) : s.issues i = true := by
    by_contra hi
    rw [step_of_not_issued hm hi hstep, State.nextMove_frame] at h1
    simp [h0] at h1
  exact (he.cause_of_hostProtocol h0 h1).imp (.imp_left hissued) (.imp_left hissued)

theorem step_primed_of_issues_prime {s t : State} (hi : s.issues .prime = true) (hs : s.started = false)
    (hstep : step s = .next t) : t.primed = true := by
  have hexec := step_of_issues_prime hi hstep
  rw [execPrime_of_not_started (by rw [State.nextMove_frame]; exact hs)] at hexec
  cases hexec
  rw [State.primeBuffers_eq]

/-! ### The stages of the boot -/

/-- What the stage of a boot says of `STARTED` and `PRIMED`. -/
def State.atStage (s : State) : BootStage → Prop
  | .fresh => s.started = false
  | .primed => s.started = false ∧ s.primed = true
  | .started => True

section
variable {s t : State} {stage stage' : BootStage}

/-- A step in the boot order leads to a state of the next stage. -/
theorem step_keeps_atStage (hb : s.bootAfter stage = some stage') (hs : s.atStage stage) (hstep : step s = .next t) :
    t.atStage stage' := by
  have hstarted (h0 : s.started = false) (hi : s.issues .start ≠ true) : t.started = false := by
    by_contra h1
    exact hi (step_cause_of_started hstep h0 (by simpa using h1))
  cases stage with
  | fresh =>
    simp only [State.bootAfter] at hb
    split at hb
    · cases hb
    · next hstart =>
      split at hb <;> cases hb
      · next hprime => exact ⟨hstarted hs hstart, step_primed_of_issues_prime hprime hs hstep⟩
      · exact hstarted hs hstart
  | primed =>
    obtain ⟨h0, hp⟩ := hs
    simp only [State.bootAfter] at hb
    split at hb <;> cases hb
    · trivial
    · next hstart => exact ⟨hstarted h0 hstart, (step_keepsSticky hstep).primed hp⟩
  | started =>
    simp only [State.bootAfter] at hb
    split at hb <;> cases hb
    trivial

/-- A step in the boot order issues no command that violates the protocol. -/
theorem step_keeps_protocol (hb : s.bootAfter stage = some stage') (hs : s.atStage stage)
    (h0 : s.fHostProtocol = false) (hstep : step s = .next t) : t.fHostProtocol = false := by
  by_contra h1
  have hcause := step_cause_of_hostProtocol hstep h0 (by simpa using h1)
  cases stage with
  | fresh =>
    have hns : s.started = false := hs
    rcases hcause with ⟨-, hst⟩ | ⟨hi, -⟩
    · simp [hns] at hst
    · simp [State.bootAfter, hi] at hb
  | primed =>
    obtain ⟨hns, hp⟩ := hs
    simp [hns, hp] at hcause
  | started =>
    rcases hcause with ⟨hi, -⟩ | ⟨hi, -⟩ <;> simp [State.bootAfter, hi] at hb

end

theorem State.bootOrderFor_succ {stage : BootStage} {k : Nat} {s t : State} (hstep : step s = .next t)
    (hord : State.bootOrderFor stage (k + 1) s = true) :
    ∃ stage', s.bootAfter stage = some stage' ∧ State.bootOrderFor stage' k t = true := by
  rw [State.bootOrderFor] at hord
  split at hord
  · cases hord
  · next stage' hb => exact ⟨stage', hb, by simpa [hstep] using hord⟩

/-- A run in the boot order from any stage. -/
theorem core_run_keeps_protocol {k : Nat} {s t : State} {stage : BootStage} (hs : s.atStage stage)
    (hord : State.bootOrderFor stage k s = true) (h0 : s.fHostProtocol = false) (hrun : core.run k s = .next t) :
    t.fHostProtocol = false := by
  induction k generalizing s stage with
  | zero => cases hrun; exact h0
  | succ k ih =>
    obtain ⟨u, hstep, hrun⟩ := core_run_succ.1 hrun
    obtain ⟨stage', hb, hord⟩ := State.bootOrderFor_succ hstep hord
    exact ih (step_keeps_atStage hb hs hstep) hord (step_keeps_protocol hb hs h0 hstep) hrun

/-- Settles O50: reset is fresh, with `F_HOST_PROTOCOL` clear, whatever moves are in store. -/
theorem bootOrderKeepsTheProtocol : Obligations.BootOrderKeepsTheProtocol := by
  unfold Obligations.BootOrderKeepsTheProtocol
  intro cfg pix tb moves k t s _ hord hrun
  exact core_run_keeps_protocol (show s.atStage .fresh from rfl) hord rfl hrun

end Sys2Proof.Machine
end

section
/-! The reset values of R321. -/

namespace Sys2Proof.Machine

/-- Every fade descriptor is inert at reset, and so is the one read where there is none (44_host_fade_engine.md R250). -/
theorem State.readFade_resetWith (cfg : Config) (pix : List Pixel) (tb : Vector Byte 48) (i : Nat) :
    (State.resetWith cfg pix tb).readFade i = FadeRec.inert :=
  List.getElem?_getD_replicate_default_eq _ _ i

/-- At reset only `LAST_EV = FULLY_DRAINED` shows in `STATUS`, as its bit 1 (10_state.md R46). -/
theorem State.status_resetWith (cfg : Config) (pix : List Pixel) (tb : Vector Byte 48) :
    (State.resetWith cfg pix tb).status = 0x00000002 := by
  simp [State.status, State.resetWith, State.pendingKindBit, Event.bit, Phase.bit]

/-- Settles O41: the registers as `resetWith` sets them, the fade records, and the `STATUS` word they pack to. -/
theorem resetLeavesTheSpecsValues : Obligations.ResetLeavesTheSpecsValues := by
  unfold Obligations.ResetLeavesTheSpecsValues
  intro cfg pix tb
  refine ⟨rfl, rfl, rfl, rfl, rfl, rfl, rfl, rfl, rfl, rfl, rfl, rfl, rfl, rfl, rfl, rfl, rfl,
    State.readFade_resetWith cfg pix tb, State.status_resetWith cfg pix tb⟩

end Sys2Proof.Machine
end
